-- ==== Sys2Proof/Word.lean ====
section
/-! DEFINITION. The word types of the hardware (00_scope.md R8, R9). -/
namespace Sys2Proof

/-- `u8`: a byte. -/
abbrev Byte := BitVec 8

/-- `u32`: the `x86_32` accumulator, its block words, a command word, STATUS. -/
abbrev W32 := BitVec 32

/-- `u64`: a lane of `x64_128`, its block words, and every 64-bit register. -/
abbrev W64 := BitVec 64

end Sys2Proof
end

