-- ==== Sys2Proof/Config.lean ====
section
/-! DEFINITION. The named sets of the hardware, the parameters a model takes as arguments, and the free values. -/
namespace Sys2Proof

/-- VAR (10_state.md R33): the two algorithm variants of 00_scope.md R1. -/
inductive Variant where
  | x86_32
  | x64_128
  deriving DecidableEq, Repr

/-- SRC (10_state.md R33): the three input forms. The code 3 is never taken and is not expressible. -/
inductive Source where
  | bytes
  | i32
  | i64
  deriving DecidableEq, Repr

/-- The five registers the host writes and reads as storage (10_state.md R21 to R25). -/
inductive OperandReg where
  | seed
  | idata
  | offset
  | length
  | buflen
  deriving DecidableEq, Repr

/-- NATIVE_W (00_scope.md R8): the host's native integer width. -/
inductive NativeWidth where
  | w32
  | w64
  deriving DecidableEq, Repr

/-- The OPEN parameters of 00_scope.md R8 (92_eei_decisions.md D7, D8, D9). They stand in State as plain data that no
step changes, so a claim about every state is a claim for every value of them (log entry 4, DESIGN CHOICE, safe). -/
structure Config.Params where
  /-- INBUF_CAP, 0 <= INBUF_CAP < 2^63. -/
  inbufCap : Fin (2 ^ 63)
  /-- BASE, the bus address of the register block. -/
  base : Nat
  /-- NATIVE_W, used by pseudo-instructions only. -/
  nativeW : NativeWidth
  deriving DecidableEq, Repr

/-- FREE VALUE: what an operand register that the host has not written since reset reads as at a given moment
(10_state.md R39: "it may differ from one reset to the next and from one read to the next"). No body: nothing can be
proved about it (log entry 1, DESIGN CHOICE, safe). -/
opaque Config.unwrittenWord : Nat → OperandReg → W64

/-- FREE VALUE: what the INBUF byte at an index that the host has not written since reset reads as at a given moment
(10_state.md R39). The first argument is the moment, the second the index (log entry 2, DESIGN CHOICE, safe). -/
opaque Config.unwrittenByte : Nat → Nat → Byte

end Sys2Proof
end

