-- ==== Sys2Proof/Syntax.lean ====
section
/-! DEFINITION. The instructions: one constructor for each of the 17 rows of spec/opcode_table.json. -/
namespace Sys2Proof

/-- Six commands (30_encoding.md R67) and eleven micro-operations (R71). A command word has no operand field (R69);
of the micro-operations only `LEBD.CHECK` leaves a bit of its code free, the VAR bit. -/
inductive Instr where
  /-- `HASH32.BYTES` -/
  | hash32Bytes
  /-- `HASH32.I32` -/
  | hash32I32
  /-- `HASH32.I64` -/
  | hash32I64
  /-- `HASH128.BYTES` -/
  | hash128Bytes
  /-- `HASH128.I32` -/
  | hash128I32
  /-- `HASH128.I64` -/
  | hash128I64
  /-- `LEBD.CHECK`, code x001: `var` is the free bit of the code. -/
  | lebdCheck (var : Variant)
  /-- `M32.INIT` -/
  | m32Init
  /-- `M32.BLOCK` -/
  | m32Block
  /-- `M32.TAIL` -/
  | m32Tail
  /-- `M32.FINAL` -/
  | m32Final
  /-- `PACK32` -/
  | pack32
  /-- `M128.INIT` -/
  | m128Init
  /-- `M128.BLOCK` -/
  | m128Block
  /-- `M128.TAIL` -/
  | m128Tail
  /-- `M128.FINAL` -/
  | m128Final
  /-- `PACK128` -/
  | pack128
  deriving DecidableEq, Repr

end Sys2Proof
end

