-- ==== Sys2Proof/WellFormed.lean ====
section
/-! DEFINITION. What a well-formed command word, micro-operation code and instruction are (30_encoding.md R66, R71, R72). -/
namespace Sys2Proof

/-- Field ZERO of a command word, bits 31:8. -/
def zeroField (w : W32) : BitVec 24 := w.extractLsb' 8 24

/-- Field VARSEL of a command word, bits 7:4. -/
def varsel (w : W32) : BitVec 4 := w.extractLsb' 4 4

/-- Field SRCSEL of a command word, bits 3:0. -/
def srcsel (w : W32) : BitVec 4 := w.extractLsb' 0 4

/-- R66: "A word is a legal command exactly when ZERO = 0, VARSEL is 1 or 2, and SRCSEL is 0, 1 or 2." -/
def cmdWordWf (w : W32) : Bool :=
  zeroField w == 0 && (varsel w == 1 || varsel w == 2) && (srcsel w == 0 || srcsel w == 1 || srcsel w == 2)

/-- The PHASE field of a micro-operation code, bits 2:0 (R70). -/
def phaseField (c : BitVec 4) : BitVec 3 := c.extractLsb' 0 3

/-- The VAR field of a micro-operation code, bit 3 (R70). -/
def varField (c : BitVec 4) : BitVec 1 := c.extractLsb' 3 1

/-- R71, R72: a code names a micro-operation exactly when PHASE is neither 0 (the core is idle) nor 7 (reserved). -/
def uopCodeWf (c : BitVec 4) : Bool := phaseField c != 0 && phaseField c != 7

/-- Every term of `Instr` is well formed: a command has no operand (R69), and the one operand of a micro-operation, the
VAR bit of `LEBD.CHECK`, is a named set with no other member. The checks that can fail are those of the words, above. -/
def Instr.wf : Instr → Bool
  | .hash32Bytes | .hash32I32 | .hash32I64 | .hash128Bytes | .hash128I32 | .hash128I64 => true
  | .lebdCheck .x86_32 | .lebdCheck .x64_128 => true
  | .m32Init | .m32Block | .m32Tail | .m32Final | .pack32 => true
  | .m128Init | .m128Block | .m128Tail | .m128Final | .pack128 => true

end Sys2Proof
end

