-- ==== Sys2Proof/Decode.lean ====
section
/-! DEFINITION. The decoder, total on every word of both formats and rejecting by name, and after it the encoder. -/
namespace Sys2Proof

/-- The two things that have encodings (30_encoding.md R65). -/
inductive Code where
  /-- Format CMD: the word the host writes to CMD. -/
  | cmd (w : W32)
  /-- Format UOP: the sequencer's code {VAR, PHASE}. -/
  | uop (c : BitVec 4)
  deriving DecidableEq, Repr

/-- Why a word is no instruction. -/
inductive Reject where
  /-- A word outside the command map (R68). -/
  | illegalCommand
  /-- Codes x000: the core is idle (R71). -/
  | coreIdle
  /-- Codes x111 (R72). -/
  | reservedUop
  deriving DecidableEq, Repr

/-- What the decoder answers. -/
inductive Decoded where
  | instr (i : Instr)
  | reject (r : Reject)
  deriving DecidableEq, Repr

/-- VAR as the bit of 10_state.md R33. -/
def Variant.bit : Variant → BitVec 1
  | .x86_32 => 0
  | .x64_128 => 1

/-- The variant a VAR bit names. -/
def variantOfBit (b : BitVec 1) : Variant := if b = 0 then .x86_32 else .x64_128

/-- R66, R67: the command a word is. -/
def decodeCmd (w : W32) : Decoded :=
  if zeroField w = 0 then
    if varsel w = 1 then
      if srcsel w = 0 then .instr .hash32Bytes
      else if srcsel w = 1 then .instr .hash32I32
      else if srcsel w = 2 then .instr .hash32I64
      else .reject .illegalCommand
    else if varsel w = 2 then
      if srcsel w = 0 then .instr .hash128Bytes
      else if srcsel w = 1 then .instr .hash128I32
      else if srcsel w = 2 then .instr .hash128I64
      else .reject .illegalCommand
    else .reject .illegalCommand
  else .reject .illegalCommand

/-- R71, R72: the micro-operation a code {VAR, PHASE} is. -/
def decodeUop (c : BitVec 4) : Decoded :=
  if phaseField c = 0 then .reject .coreIdle
  else if phaseField c = 7 then .reject .reservedUop
  else if phaseField c = 1 then .instr (.lebdCheck (variantOfBit (varField c)))
  else match variantOfBit (varField c) with
    | .x86_32 =>
      if phaseField c = 2 then .instr .m32Init
      else if phaseField c = 3 then .instr .m32Block
      else if phaseField c = 4 then .instr .m32Tail
      else if phaseField c = 5 then .instr .m32Final
      else .instr .pack32
    | .x64_128 =>
      if phaseField c = 2 then .instr .m128Init
      else if phaseField c = 3 then .instr .m128Block
      else if phaseField c = 4 then .instr .m128Tail
      else if phaseField c = 5 then .instr .m128Final
      else .instr .pack128

/-- The decoder of both formats. -/
def decode : Code → Decoded
  | .cmd w => decodeCmd w
  | .uop c => decodeUop c

/-- A command word put together from its two fields, ZERO being 0 (R66). -/
def cmdWord (varsel srcsel : BitVec 4) : W32 := (0#24 ++ varsel) ++ srcsel

/-- A micro-operation code put together from its two fields (R70). -/
def uopWord (var : Variant) (phase : BitVec 3) : BitVec 4 := var.bit ++ phase

/-- The encoder, from the tables of R67 and R71. -/
def encode : Instr → Code
  | .hash32Bytes => .cmd (cmdWord 1 0)
  | .hash32I32 => .cmd (cmdWord 1 1)
  | .hash32I64 => .cmd (cmdWord 1 2)
  | .hash128Bytes => .cmd (cmdWord 2 0)
  | .hash128I32 => .cmd (cmdWord 2 1)
  | .hash128I64 => .cmd (cmdWord 2 2)
  | .lebdCheck v => .uop (uopWord v 1)
  | .m32Init => .uop (uopWord .x86_32 2)
  | .m32Block => .uop (uopWord .x86_32 3)
  | .m32Tail => .uop (uopWord .x86_32 4)
  | .m32Final => .uop (uopWord .x86_32 5)
  | .pack32 => .uop (uopWord .x86_32 6)
  | .m128Init => .uop (uopWord .x64_128 2)
  | .m128Block => .uop (uopWord .x64_128 3)
  | .m128Tail => .uop (uopWord .x64_128 4)
  | .m128Final => .uop (uopWord .x64_128 5)
  | .pack128 => .uop (uopWord .x64_128 6)

/-- Whether a code of either format is a well-formed one. -/
def Code.wf : Code → Bool
  | .cmd w => cmdWordWf w
  | .uop c => uopCodeWf c

/-- The code that `nbits` bits numbered as spec/opcode_table.json numbers them stand for: 32 bits are a command word,
at most 8 a micro-operation code in bits 3:0 with the bits above it 0 (log entry 17, DESIGN CHOICE). -/
def tableCode (nbits w : Nat) : Option Code :=
  if nbits = 32 ∧ w < 2 ^ 32 then some (.cmd (BitVec.ofNat 32 w))
  else if nbits ≤ 8 ∧ w < 2 ^ 4 then some (.uop (BitVec.ofNat 4 w))
  else none

/-- The instruction the decoder reads from a word of the table. -/
def decodeTableWord (nbits w : Nat) : Option Instr :=
  match tableCode nbits w with
  | none => none
  | some c =>
    match decode c with
    | .instr i => some i
    | .reject _ => none

end Sys2Proof
end

