-- ==== Sys2Proof/Machine/State.lean ====
section
/-! DEFINITION. State as plain data, its reset value, and the reasons a step can stop. -/
namespace Sys2Proof.Machine

/-- PHASE (10_state.md R33). The code 7 is never taken and is not expressible (30_encoding.md R72). -/
inductive Phase where
  | idle
  | check
  | init
  | body
  | tail
  | final
  | pack
  deriving DecidableEq, Repr

/-- DLEN (10_state.md R28): "taking only the values 0, 4 and 16". -/
inductive ResultLen where
  | none
  | four
  | sixteen
  deriving DecidableEq, Repr

/-- The MODEL's marks "the host has written this register since reset" (10_state.md R38 (d), 93 I1). -/
structure Written where
  idata : Bool
  offset : Bool
  length : Bool
  buflen : Bool
  deriving DecidableEq, Repr

/-- The registers of REG that are accessed whole (10_state.md R20). -/
inductive Reg where
  | cmd
  | status
  | seed
  | idata
  | offset
  | length
  | buflen
  | view32
  | view64
  | bitwidth
  deriving DecidableEq, Repr

/-- What a host access of the right width reaches (10_state.md R20, 30_encoding.md R75). -/
inductive Target where
  | reg (r : Reg)
  | digest (i : Nat)
  | hex (j : Nat)
  | reserved
  deriving DecidableEq, Repr

/-- One action of the host (30_encoding.md R76). -/
inductive HostAction where
  /-- A bus write: address, width in bits, value. -/
  | write (addr width : Nat) (value : W64)
  /-- A bus read: address, width in bits. -/
  | read (addr width : Nat)
  /-- The host sets one byte of INBUF. -/
  | buf (index : Nat) (value : Byte)
  /-- The reset event (70_reset_and_hazards.md R210): at once when the core is idle or `after` is 0, else when the running
  command has done `after` more micro-operations or ended (log entry 7). -/
  | reset (after : Nat)
  deriving DecidableEq, Repr

/-- A value one of the host's reads returned (44_commands.md R175), zero-extended to 64 bits. -/
structure ReadRecord where
  addr : Nat
  width : Nat
  value : W64
  deriving DecidableEq, Repr

/-- The hardware's two errors (60_exceptions.md R190). -/
inductive HwError where
  | boundsViolation
  | illegalCommand
  deriving DecidableEq, Repr

/-- Why the machine stops with a fault. No run from reset meets one. -/
inductive Fault where
  /-- Raised by a BLOCK or TAIL micro-operation that would read a source byte that does not exist: an INBUF index at or
  above INBUF_CAP, an IBYTES index above 7 (20_memory.md R45, R48). Safe. -/
  | noSuchByte
  /-- Raised by a TAIL micro-operation whose precondition fails: REM above 3 (`M32.TAIL`) or 15 (`M128.TAIL`)
  (41 R106, 42 R126). Safe. -/
  | tailTooLong
  /-- Raised by the step on a UOP code that names no micro-operation (30_encoding.md R72: "has no step (stuck)"). Safe. -/
  | stuck
  deriving DecidableEq, Repr

/-- Why a step is refused. All but the first are about the host's accesses, none about data. -/
inductive Refusal where
  /-- Answered by `exec` for an instruction that has no meaning yet. Safe. -/
  | notModelled (mnemonic : String)
  /-- A command while PHASE is not IDLE (93 I7, 44_commands.md R170). The step makes no such access. Safe. -/
  | coreBusy
  /-- A host access whose place and width are those of no register (30_encoding.md R75, 93 I2). Safe. -/
  | badAccess
  /-- A host read of a view or result byte that does not exist (43_result_packer.md R140, 93 I3). Safe. -/
  | noResult
  /-- A host read of a reserved offset (30_encoding.md R75, 93 I2). Safe. -/
  | reservedRead
  /-- A host write of INBUF[i] with i >= INBUF_CAP (44_commands.md R171: "no such cell; refused by a model"). Safe. -/
  | noSuchCell
  deriving DecidableEq, Repr

/-- The complete state of the hardware (10_state.md R20), then the parameters (00_scope.md R8) and the model's own fields. -/
structure State where
  seed : W64
  idata : W64
  offset : W64
  length : W64
  buflen : W64
  status : W32
  digest : Vector Byte 16
  dlen : ResultLen
  h1 : W32
  h1q : W64
  h2q : W64
  len : W64
  pos : W64
  rem : W64
  phase : Phase
  var : Variant
  src : Source
  /-- The INBUF bytes the host has written, in rising order of index; an index not listed has been written by no one. -/
  inbuf : List Host.Cell
  params : Config.Params
  /-- The model's marks of the registers written since reset. -/
  written : Written
  /-- The model's counter, the argument of the free values. -/
  moment : Nat
  /-- The host's actions still to come, oldest first. -/
  inputs : List HostAction
  /-- The values the host's reads returned, oldest first. -/
  reads : List ReadRecord
  deriving DecidableEq, Repr

/-- The machine right after reset (10_state.md R39): SEED, STATUS, DLEN and PHASE as the rule states. The rest the rule
leaves unspecified: the operand registers and INBUF are marked unwritten (log entries 1, 2), the internal registers,
which every command writes before it reads them, are 0 (log entry 3, DESIGN CHOICE), the parameters are those of
log entry 4, the model's own fields those of log entries 5 and 6. -/
def State.reset : State where
  seed := 0
  idata := 0
  offset := 0
  length := 0
  buflen := 0
  status := 0
  digest := Vector.replicate 16 0
  dlen := .none
  h1 := 0
  h1q := 0
  h2q := 0
  len := 0
  pos := 0
  rem := 0
  phase := .idle
  var := .x86_32
  src := .bytes
  inbuf := []
  params := { inbufCap := ⟨4096, by decide⟩, base := 0, nativeW := .w64 }
  written := { idata := false, offset := false, length := false, buflen := false }
  moment := 0
  inputs := []
  reads := []

end Sys2Proof.Machine
end

