-- ==== Sys2Proof/Machine/Operands.lean ====
section
/-! DEFINITION. Word operators, byte order, and the operand forms: operand registers, the selected source, the decomposer's reads. -/
namespace Sys2Proof.Machine

/-- `rotl_N(a, r)` (00_scope.md R11): `((a * 2^r) mod 2^N) + floor(a / 2^(N - r))`. -/
def rotl {n : Nat} (a : BitVec n) (r : Nat) : BitVec n := (a <<< r) + (a >>> (n - r))

/-- `le(b[0..n-1])` (00_scope.md R13): byte 0 is the least significant. -/
def le : List Byte → Nat
  | [] => 0
  | b :: bs => b.toNat + 2 ^ 8 * le bs

/-- `byte_i(v)` (00_scope.md R13): `v[8*i+7 : 8*i]`. -/
def byteAt {n : Nat} (v : BitVec n) (i : Nat) : Byte := v.extractLsb' (8 * i) 8

/-- The content of INBUF at an index, `none` where the host has written nothing (20_memory.md R46). -/
def Memory.lookup : List Host.Cell → Nat → Option Byte
  | [], _ => none
  | c :: m, i => if c.1 = i then some c.2 else Memory.lookup m i

/-- INBUF with one byte set. The list stays in rising order of index. -/
def Memory.store : List Host.Cell → Nat → Byte → List Host.Cell
  | [], i, b => [(i, b)]
  | c :: m, i, b =>
    if i < c.1 then (i, b) :: c :: m
    else if i = c.1 then (i, b) :: m
    else c :: Memory.store m i b

/-- The canonical form of INBUF: indices strictly rising. No entry can equal what an unlisted index holds, since an
unlisted index holds no value the model names (log entry 2). -/
abbrev Memory.wf (m : List Host.Cell) : Prop := m.Pairwise fun a b => a.1 < b.1

/-- The stored content of an operand register. -/
def storedOperand (s : State) : OperandReg → W64
  | .seed => s.seed
  | .idata => s.idata
  | .offset => s.offset
  | .length => s.length
  | .buflen => s.buflen

/-- Whether an operand register holds a value the spec names: SEED always (10_state.md R39), the others once the host
has written them since reset. -/
def isWritten (s : State) : OperandReg → Bool
  | .seed => true
  | .idata => s.written.idata
  | .offset => s.written.offset
  | .length => s.written.length
  | .buflen => s.written.buflen

/-- Reading an operand register: its content, or a free value where the host has not written it since reset
(10_state.md R39; log entry 1). -/
def operand (s : State) (r : OperandReg) : W64 :=
  if isWritten s r then storedOperand s r else Config.unwrittenWord s.moment r

/-- The byte of INBUF the core reads at index i, inside INBUF's index range: what the host wrote, or a free value
(10_state.md R39; log entry 2). -/
def inbufByte (s : State) (i : Nat) : Byte :=
  match Memory.lookup s.inbuf i with
  | some b => b
  | none => Config.unwrittenByte s.moment i

/-- `Src[i]` (20_memory.md R47, R48): INBUF[i], or IBYTES[i] = IDATA[8*i+7 : 8*i]; `none` where no such byte exists
(R45). -/
def srcByte (s : State) (i : Nat) : Option Byte :=
  match s.src with
  | .bytes => if i < s.params.inbufCap.val then some (inbufByte s i) else none
  | .i32 | .i64 => if i < 8 then some (byteAt (operand s .idata) i) else none

/-- The n source bytes at indices p, p+1, ..., p+n-1; `none` if one of them does not exist. -/
def srcBytes (s : State) (p : Nat) : Nat → Option (List Byte)
  | 0 => some []
  | n + 1 =>
    match srcByte s p, srcBytes s (p + 1) n with
    | some b, some bs => some (b :: bs)
    | _, _ => none

/-- `MemRead(addr, n)` (00_scope.md R14), as a word of w bits. -/
def memRead (w : Nat) (s : State) (p n : Nat) : Option (BitVec w) :=
  (srcBytes s p n).map fun bs => BitVec.ofNat w (le bs)

/-- `LEBD.RD32(p)` (40_decomposer.md R88). -/
def lebdRd32 (s : State) (p : Nat) : Option W32 := memRead 32 s p 4

/-- `LEBD.RD64(p)` (40_decomposer.md R89). -/
def lebdRd64 (s : State) (p : Nat) : Option W64 := memRead 64 s p 8

/-- `LEBD.RDTAIL(p, n)` (40_decomposer.md R90), as the `u32` of `M32.TAIL`. -/
def lebdRdTail32 (s : State) (p n : Nat) : Option W32 := memRead 32 s p n

/-- `LEBD.RDTAIL(p, n)` (40_decomposer.md R90), as the `u64` of `M128.TAIL`. -/
def lebdRdTail64 (s : State) (p n : Nat) : Option W64 := memRead 64 s p n

/-- `RangeOK(o, l, b)` (40_decomposer.md R86), on mathematical integers. -/
def rangeOk (cap : Nat) (o l : Int) (b : Nat) : Bool :=
  decide (0 ≤ o) && decide (0 ≤ l) && decide (o + l ≤ (b : Int)) && decide (b ≤ cap)

end Sys2Proof.Machine
end

