-- ==== Sys2Proof/Machine/Flags.lean ====
section
/-! DEFINITION. STATUS: its fields and the words the hardware writes to it. The hardware has no arithmetic flag (10_state.md R37). -/
namespace Sys2Proof.Machine

/-- STATUS.DONE, bit 0 (10_state.md R27). -/
def statusDone (v : W32) : Bool := v.getLsbD 0

/-- STATUS.ERR, bit 1. -/
def statusErr (v : W32) : Bool := v.getLsbD 1

/-- STATUS.ECODE, bits 5:2. -/
def statusEcode (v : W32) : BitVec 4 := v.extractLsb' 2 4

/-- STATUS.WIDE, bit 6. -/
def statusWide (v : W32) : Bool := v.getLsbD 6

/-- STATUS after command acceptance (44_commands.md R160). -/
def statusClear : W32 := 0x00000000

/-- STATUS after `PACK32` (43_result_packer.md R141): DONE = 1. -/
def statusDone32 : W32 := 0x00000001

/-- STATUS after `PACK128` (43_result_packer.md R142): DONE = 1, WIDE = 1. -/
def statusDone128 : W32 := 0x00000041

/-- ECODE of an error (60_exceptions.md R190). -/
def HwError.code : HwError → Nat
  | .boundsViolation => 1
  | .illegalCommand => 2

/-- STATUS after error entry (60_exceptions.md R196): `(code * 4) + 2`. -/
def statusOfError (e : HwError) : W32 := BitVec.ofNat 32 (e.code * 4 + 2)

end Sys2Proof.Machine
end

