-- ==== Sys2Proof/Machine/Ops.lean ====
section
/-! DEFINITION. The shared operations: outcomes, register and INBUF writes, the advance, the sequencer's choice, error entry, acceptance, reset. -/
namespace Sys2Proof.Machine

/-- The three outcomes, over this machine's types. -/
abbrev Outcome := Host.Outcome State Fault Refusal

/-- An outcome with its next state changed. -/
def mapNext (f : State → State) : Outcome → Outcome
  | .next s => .next (f s)
  | .fault r => .fault r
  | .refused r => .refused r

/-- DLEN as the number of bytes it stands for (10_state.md R28). -/
def ResultLen.toNat : ResultLen → Nat
  | .none => 0
  | .four => 4
  | .sixteen => 16

/-- BS (40_decomposer.md R85): the block size of a variant. -/
def blockSize : Variant → Nat
  | .x86_32 => 4
  | .x64_128 => 16

/-- `LEBD.ADV(n)` (40_decomposer.md R91). The rule calls it with n <= REM only; in a state where REM is smaller, which no
run reaches, REM wraps as a 64-bit register (log entry 10). -/
def adv (n : Nat) (s : State) : State :=
  { s with pos := s.pos + BitVec.ofNat 64 n, rem := s.rem - BitVec.ofNat 64 n }

/-- The phase after INIT and BLOCK (44_commands.md R161): BODY if REM >= BS, else TAIL. -/
def bodyOrTail (v : Variant) (rem : W64) : Phase :=
  if blockSize v ≤ rem.toNat then .body else .tail

/-- PHASE set by R161's BODY or TAIL choice on the REM the state now holds. -/
def toBodyOrTail (v : Variant) (s : State) : State := { s with phase := bodyOrTail v s.rem }

/-- `MemWrite(addr, n, v)` on DIGEST (00_scope.md R14): `byte_i(v)` goes to DIGEST[addr + i] for i = 0 .. n-1. -/
def memWrite {w : Nat} (d : Vector Byte 16) (addr n : Nat) (v : BitVec w) : Vector Byte 16 :=
  Vector.ofFn fun i : Fin 16 =>
    if addr ≤ i.val ∧ i.val < addr + n then byteAt v (i.val - addr) else d[i]

/-- Error entry, `raise E()` (60_exceptions.md R196): the one way the hardware takes an error. Nothing is saved and there
is no handler address. There is no return from it either (R197): the next command's acceptance clears STATUS. -/
def raiseError (e : HwError) (s : State) : State :=
  { s with status := statusOfError e, dlen := .none, phase := .idle }

/-- The first line of command acceptance (44_commands.md R160), done for every word written to CMD. -/
def discardOutcome (s : State) : State := { s with status := statusClear, dlen := .none }

/-- Command acceptance of a legal word (44_commands.md R160). It happens only while PHASE = IDLE (log entry 9). -/
def accept (v : Variant) (src : Source) (s : State) : Outcome :=
  if s.phase = .idle then .next { discardOutcome s with var := v, src := src, phase := .check }
  else .refused .coreBusy

/-- Command acceptance of a word outside the command map (44_commands.md R160, 60_exceptions.md R192). -/
def acceptIllegal (s : State) : State := raiseError .illegalCommand (discardOutcome s)

/-- A host write of an operand register (44_commands.md R171). -/
def writeOperand (r : OperandReg) (v : W64) (s : State) : State :=
  match r with
  | .seed => { s with seed := v }
  | .idata => { s with idata := v, written := { s.written with idata := true } }
  | .offset => { s with offset := v, written := { s.written with offset := true } }
  | .length => { s with length := v, written := { s.written with length := true } }
  | .buflen => { s with buflen := v, written := { s.written with buflen := true } }

/-- A host write of one INBUF byte (44_commands.md R171). -/
def writeInbuf (i : Nat) (b : Byte) (s : State) : State := { s with inbuf := Memory.store s.inbuf i b }

/-- The reset event (70_reset_and_hazards.md R210): every piece of the hardware's state goes to its reset value. The
parameters, and what is the host's own (its actions to come, what it has read, the moment), stay. -/
def resetEvent (s : State) : State :=
  { State.reset with params := s.params, moment := s.moment, inputs := s.inputs, reads := s.reads }

/-- The model's counter of free values moves on at every step (log entry 5). -/
def tick (s : State) : State := { s with moment := s.moment + 1 }

end Sys2Proof.Machine
end

