-- ==== Sys2Proof/Machine/Command.lean ====
section
/-! DEFINITION. The six commands (44_commands.md R162 to R167). Each is the acceptance of its word (R160); the micro-operations
its rule lists follow as instructions of their own, one a step (log entry 8). -/
namespace Sys2Proof.Machine

/-- `HASH32.BYTES` (R162). -/
def execHash32Bytes (s : State) : Outcome := accept .x86_32 .bytes s

/-- `HASH32.I32` (R163). -/
def execHash32I32 (s : State) : Outcome := accept .x86_32 .i32 s

/-- `HASH32.I64` (R164). -/
def execHash32I64 (s : State) : Outcome := accept .x86_32 .i64 s

/-- `HASH128.BYTES` (R165). -/
def execHash128Bytes (s : State) : Outcome := accept .x64_128 .bytes s

/-- `HASH128.I32` (R166). -/
def execHash128I32 (s : State) : Outcome := accept .x64_128 .i32 s

/-- `HASH128.I64` (R167). -/
def execHash128I64 (s : State) : Outcome := accept .x64_128 .i64 s

end Sys2Proof.Machine
end

