-- ==== Sys2Proof/Machine/Decomposer.lean ====
section
/-! DEFINITION. `LEBD.CHECK` (40_decomposer.md R87). The reads LEBD.RD32, LEBD.RD64, LEBD.RDTAIL are in Operands.lean, LEBD.ADV in Ops.lean. -/
namespace Sys2Proof.Machine

/-- What `LEBD.CHECK` fixes when it does not fail. -/
def setWindow (pos len : W64) (s : State) : State :=
  { s with pos := pos, len := len, rem := len, phase := .init }

/-- The bounds check of `LEBD.CHECK` for SRC = BYTES: OFFSET and LENGTH as signed, BUFLEN as unsigned (R86, R87). -/
def checkOk (s : State) : Bool :=
  rangeOk s.params.inbufCap.val (operand s .offset).toInt (operand s .length).toInt (operand s .buflen).toNat

/-- `LEBD.CHECK` (R87). The VAR bit of its code has no part in what it does. -/
def execLebdCheck (_var : Variant) (s : State) : Outcome :=
  .next <|
    match s.src with
    | .bytes =>
      if checkOk s then setWindow (operand s .offset) (operand s .length) s
      else raiseError .boundsViolation s
    | .i32 => setWindow 0 4 s
    | .i64 => setWindow 0 8 s

end Sys2Proof.Machine
end

