-- ==== Sys2Proof/Machine/Mixer128.lean ====
section
/-! DEFINITION. murmur128_mixer, variant x64_128 (42_murmur128_mixer.md). -/
namespace Sys2Proof.Machine

/-- `mixK1_64(k)` (R121). -/
def mixK1_64 (k : W64) : W64 :=
  let a := k * 0x87c37b91114253d5#64
  let b := rotl a 31
  b * 0x4cf5ad432745937f#64

/-- `mixK2_64(k)` (R122). -/
def mixK2_64 (k : W64) : W64 :=
  let a := k * 0x4cf5ad432745937f#64
  let b := rotl a 33
  b * 0x87c37b91114253d5#64

/-- `fmix64(k)` (R123). -/
def fmix64 (k : W64) : W64 :=
  let a := k ^^^ (k >>> 33)
  let b := a * 0xff51afd7ed558ccd#64
  let c := b ^^^ (b >>> 33)
  let d := c * 0xc4ceb9fe1a85ec53#64
  d ^^^ (d >>> 33)

/-- The new lane 1 of `M128.BLOCK` (R125), from the old lanes and the first block word. -/
def blockLane1 (h1 h2 k1 : W64) : W64 :=
  let a1 := h1 ^^^ mixK1_64 k1
  let b1 := rotl a1 27
  let c1 := b1 + h2
  (c1 * 5#64) + 0x0000000052dce729#64

/-- The new lane 2 of `M128.BLOCK` (R125), from the NEW lane 1, the old lane 2 and the second block word. -/
def blockLane2 (n1 h2 k2 : W64) : W64 :=
  let a2 := h2 ^^^ mixK2_64 k2
  let b2 := rotl a2 31
  let c2 := b2 + n1
  (c2 * 5#64) + 0x0000000038495ab5#64

/-- Both lanes after `M128.FINAL` (R127). -/
def finalLanes (h1 h2 len : W64) : W64 × W64 :=
  let a1 := h1 ^^^ len
  let a2 := h2 ^^^ len
  let b1 := a1 + a2
  let b2 := a2 + b1
  let c1 := fmix64 b1
  let c2 := fmix64 b2
  let d1 := c1 + c2
  let d2 := c2 + d1
  (d1, d2)

/-- `M128.INIT` (R124). -/
def execM128Init (s : State) : Outcome :=
  .next (toBodyOrTail .x64_128 { s with h1q := s.seed, h2q := s.seed })

/-- `M128.BLOCK` (R125). -/
def execM128Block (s : State) : Outcome :=
  match lebdRd64 s s.pos.toNat, lebdRd64 s (s.pos.toNat + 8) with
  | some k1, some k2 =>
    let n1 := blockLane1 s.h1q s.h2q k1
    let n2 := blockLane2 n1 s.h2q k2
    .next (toBodyOrTail .x64_128 (adv 16 { s with h1q := n1, h2q := n2 }))
  | _, _ => .fault .noSuchByte

/-- `M128.TAIL` (R126). -/
def execM128Tail (s : State) : Outcome :=
  let t := s.rem.toNat
  if t ≤ 15 then
    let n1 := min t 8
    let n2 := t - n1
    match lebdRdTail64 s s.pos.toNat n1, lebdRdTail64 s (s.pos.toNat + 8) n2 with
    | some k1, some k2 =>
      .next { adv t { s with h1q := s.h1q ^^^ mixK1_64 k1, h2q := s.h2q ^^^ mixK2_64 k2 } with phase := .final }
    | _, _ => .fault .noSuchByte
  else .fault .tailTooLong

/-- `M128.FINAL` (R127). -/
def execM128Final (s : State) : Outcome :=
  .next { s with
    h1q := (finalLanes s.h1q s.h2q s.len).1
    h2q := (finalLanes s.h1q s.h2q s.len).2
    phase := .pack }

end Sys2Proof.Machine
end

