-- ==== Sys2Proof/Machine/Mixer32.lean ====
section
/-! DEFINITION. murmur32_mixer, variant x86_32 (41_murmur32_mixer.md). -/
namespace Sys2Proof.Machine

/-- `mixK1_32(k)` (R101). -/
def mixK1_32 (k : W32) : W32 :=
  let a := k * 0xcc9e2d51#32
  let b := rotl a 15
  b * 0x1b873593#32

/-- `mixH1_32(h, k)` (R102). -/
def mixH1_32 (h k : W32) : W32 :=
  let a := h ^^^ k
  let b := rotl a 13
  let c := b * 5#32
  c + 0xe6546b64#32

/-- `fmix32(h)` (R103). -/
def fmix32 (h : W32) : W32 :=
  let a := h ^^^ (h >>> 16)
  let b := a * 0x85ebca6b#32
  let c := b ^^^ (b >>> 13)
  let d := c * 0xc2b2ae35#32
  d ^^^ (d >>> 16)

/-- `M32.INIT` (R104). -/
def execM32Init (s : State) : Outcome :=
  .next (toBodyOrTail .x86_32 { s with h1 := s.seed.setWidth 32 })

/-- `M32.BLOCK` (R105). -/
def execM32Block (s : State) : Outcome :=
  match lebdRd32 s s.pos.toNat with
  | none => .fault .noSuchByte
  | some k => .next (toBodyOrTail .x86_32 (adv 4 { s with h1 := mixH1_32 s.h1 (mixK1_32 k) }))

/-- `M32.TAIL` (R106). -/
def execM32Tail (s : State) : Outcome :=
  let t := s.rem.toNat
  if t ≤ 3 then
    match lebdRdTail32 s s.pos.toNat t with
    | none => .fault .noSuchByte
    | some k => .next { adv t { s with h1 := s.h1 ^^^ mixK1_32 k } with phase := .final }
  else .fault .tailTooLong

/-- `M32.FINAL` (R107). -/
def execM32Final (s : State) : Outcome :=
  .next { s with h1 := fmix32 (s.h1 ^^^ s.len.setWidth 32), phase := .pack }

end Sys2Proof.Machine
end

