-- ==== Sys2Proof/Machine/Packer.lean ====
section
/-! DEFINITION. hash_result_packer: the pack micro-operations and the views (43_result_packer.md). -/
namespace Sys2Proof.Machine

/-- `PACK32` (R141). DIGEST[4..15] keep what they hold. -/
def execPack32 (s : State) : Outcome :=
  .next { s with digest := memWrite s.digest 0 4 s.h1, dlen := .four, status := statusDone32, phase := .idle }

/-- `PACK128` (R142). -/
def execPack128 (s : State) : Outcome :=
  .next { s with
    digest := memWrite (memWrite s.digest 0 8 s.h1q) 8 8 s.h2q
    dlen := .sixteen
    status := statusDone128
    phase := .idle }

/-- The raw byte view (R143): DIGEST[i] for i < DLEN; any other index has no value (R140). -/
def digestView (s : State) (i : Nat) : Option Byte :=
  if i < s.dlen.toNat then s.digest[i]? else none

/-- The first n bytes of DIGEST. -/
def digestPrefix (s : State) (n : Nat) : List Byte := s.digest.toList.take n

/-- `BITWIDTH` (R144). -/
def bitwidthView (s : State) : W32 := BitVec.ofNat 32 (8 * s.dlen.toNat)

/-- `VIEW32` (R145): no value when DLEN = 0. -/
def view32 (s : State) : Option W32 :=
  if s.dlen = .none then none
  else some (BitVec.ofNat 32 (le (digestPrefix s (min s.dlen.toNat 4))))

/-- `VIEW64` (R146): no value when DLEN = 0. -/
def view64 (s : State) : Option W64 :=
  if s.dlen = .none then none
  else some (BitVec.ofNat 64 (le (digestPrefix s (min s.dlen.toNat 8))))

/-- The character code of a nibble (R148). -/
def hexChar (nib : BitVec 4) : Byte :=
  if nib.toNat ≤ 9 then 0x30#8 + nib.setWidth 8 else 0x61#8 + (nib.setWidth 8 - 10#8)

/-- `HEX[j]` (R148): high nibble first; no value when j >= 2 * DLEN. -/
def hexView (s : State) (j : Nat) : Option Byte :=
  match digestView s (j / 2) with
  | none => none
  | some b => some (hexChar (if j % 2 = 0 then b.extractLsb' 4 4 else b.extractLsb' 0 4))

end Sys2Proof.Machine
end

