-- ==== Sys2Proof/Machine/Dispatch.lean ====
section
/-! DEFINITION. One arm per instruction. -/
namespace Sys2Proof.Machine

def exec (i : Instr) (s : State) : Host.Outcome State Fault Refusal :=
  match i with
  -- commands (44_commands.md)
  | .hash32Bytes => Sys2Proof.Machine.execHash32Bytes s
  | .hash32I32 => Sys2Proof.Machine.execHash32I32 s
  | .hash32I64 => Sys2Proof.Machine.execHash32I64 s
  | .hash128Bytes => Sys2Proof.Machine.execHash128Bytes s
  | .hash128I32 => Sys2Proof.Machine.execHash128I32 s
  | .hash128I64 => Sys2Proof.Machine.execHash128I64 s
  -- decomposer (40_decomposer.md)
  | .lebdCheck var => Sys2Proof.Machine.execLebdCheck var s
  -- murmur32_mixer and its packer (41_murmur32_mixer.md, 43_result_packer.md)
  | .m32Init => Sys2Proof.Machine.execM32Init s
  | .m32Block => Sys2Proof.Machine.execM32Block s
  | .m32Tail => Sys2Proof.Machine.execM32Tail s
  | .m32Final => Sys2Proof.Machine.execM32Final s
  | .pack32 => Sys2Proof.Machine.execPack32 s
  -- murmur128_mixer and its packer (42_murmur128_mixer.md, 43_result_packer.md)
  | .m128Init => Sys2Proof.Machine.execM128Init s
  | .m128Block => Sys2Proof.Machine.execM128Block s
  | .m128Tail => Sys2Proof.Machine.execM128Tail s
  | .m128Final => Sys2Proof.Machine.execM128Final s
  | .pack128 => Sys2Proof.Machine.execPack128 s

end Sys2Proof.Machine
end

