-- ==== Sys2Proof/Machine/HostPort.lean ====
section
/-! DEFINITION. The register block as the host reaches it (10_state.md R20, 44_commands.md R171, R172, 30_encoding.md R75). -/
namespace Sys2Proof.Machine

/-- The offset column of R20's table. -/
def regOffset : Reg → Nat
  | .cmd => 0x00
  | .status => 0x04
  | .seed => 0x08
  | .idata => 0x10
  | .offset => 0x18
  | .length => 0x20
  | .buflen => 0x28
  | .view32 => 0x40
  | .view64 => 0x48
  | .bitwidth => 0x50

/-- The width column of R20's table, in bits. -/
def regWidth : Reg → Nat
  | .cmd | .status | .view32 | .bitwidth => 32
  | .seed | .idata | .offset | .length | .buflen | .view64 => 64

/-- The registers accessed whole. -/
def regTable : List Reg :=
  [.cmd, .status, .seed, .idata, .offset, .length, .buflen, .view32, .view64, .bitwidth]

/-- Whether the n bytes from an offset on are all reserved (R75: "0x54 to 0x5F and every offset from 0x80 upward"). -/
def allReserved (off n : Nat) : Bool := (0x54 ≤ off && off + n ≤ 0x60) || 0x80 ≤ off

/-- What an access of some width at an offset reaches. `none` for an access that is not the full width of the register
at that offset, straddles two, or meets no row of the table (R75, 93 I2; log entries 12, 13). -/
def locate (off width : Nat) : Option Target :=
  match regTable.find? fun r => regOffset r = off && regWidth r = width with
  | some r => some (.reg r)
  | none =>
    if width = 8 ∧ 0x30 ≤ off ∧ off < 0x40 then some (.digest (off - 0x30))
    else if width = 8 ∧ 0x60 ≤ off ∧ off < 0x80 then some (.hex (off - 0x60))
    else if (width = 8 ∨ width = 16 ∨ width = 32 ∨ width = 64) ∧ allReserved off (width / 8) then some .reserved
    else none

/-- What an access at a bus address reaches: the offset is the distance from BASE (20_memory.md R45; log entry 14). -/
def locateAt (s : State) (addr width : Nat) : Option Target :=
  if s.params.base ≤ addr then locate (addr - s.params.base) width else none

/-- The value a host read returns (R172), `none` where the rule gives it no value. -/
def readTarget (s : State) : Target → Option W64
  | .reg .cmd => some 0
  | .reg .status => some (s.status.setWidth 64)
  | .reg .seed => some (operand s .seed)
  | .reg .idata => some (operand s .idata)
  | .reg .offset => some (operand s .offset)
  | .reg .length => some (operand s .length)
  | .reg .buflen => some (operand s .buflen)
  | .reg .view32 => (view32 s).map (·.setWidth 64)
  | .reg .view64 => view64 s
  | .reg .bitwidth => some ((bitwidthView s).setWidth 64)
  | .digest i => (digestView s i).map (·.setWidth 64)
  | .hex j => (hexView s j).map (·.setWidth 64)
  | .reserved => none

/-- Why a read that has no value is refused. -/
def readRefusal : Target → Refusal
  | .reserved => .reservedRead
  | .reg _ | .digest _ | .hex _ => .noResult

/-- A host read (R172): no state of the hardware changes; the value joins what the host has read. -/
def hostRead (addr width : Nat) (t : Target) (s : State) : Outcome :=
  match readTarget s t with
  | some v => .next { s with reads := s.reads ++ [⟨addr, width, v⟩] }
  | none => .refused (readRefusal t)

/-- A host write to anything but CMD (R171). -/
def hostWrite (t : Target) (v : W64) (s : State) : State :=
  match t with
  | .reg .seed => writeOperand .seed v s
  | .reg .idata => writeOperand .idata v s
  | .reg .offset => writeOperand .offset v s
  | .reg .length => writeOperand .length v s
  | .reg .buflen => writeOperand .buflen v s
  | .reg .cmd | .reg .status | .reg .view32 | .reg .view64 | .reg .bitwidth => s
  | .digest _ | .hex _ | .reserved => s

end Sys2Proof.Machine
end

