-- ==== Sys2Proof/Machine/Sequencer.lean ====
section
/-! DEFINITION. What happens next: the sequencer's code, the host's next action, the reset event. -/
namespace Sys2Proof.Machine

/-- What a step does next. -/
inductive Event where
  /-- The core is idle and the host has nothing to do. -/
  | quiet
  /-- The reset event. -/
  | reset
  /-- An instruction: the word the host writes to CMD, or the micro-operation of {VAR, PHASE}. -/
  | instr (c : Code)
  /-- A host write to a register other than CMD, or to a place where writes are ignored. -/
  | write (t : Target) (v : W64)
  /-- A host read. -/
  | read (addr width : Nat) (t : Target)
  /-- A host write of an INBUF byte. -/
  | buf (i : Nat) (b : Byte)
  /-- A host access that is refused whatever the state holds. -/
  | refuse (r : Refusal)
  deriving DecidableEq, Repr

/-- PHASE as the bits of 10_state.md R33. -/
def Phase.code : Phase → BitVec 3
  | .idle => 0
  | .check => 1
  | .init => 2
  | .body => 3
  | .tail => 4
  | .final => 5
  | .pack => 6

/-- SRC as the bits of 10_state.md R33. -/
def srcCode : Source → BitVec 2
  | .bytes => 0
  | .i32 => 1
  | .i64 => 2

/-- The phase a PHASE field names; 7 names none (30_encoding.md R72). -/
def phaseOfCode (c : BitVec 3) : Option Phase :=
  if c = 0 then some .idle
  else if c = 1 then some .check
  else if c = 2 then some .init
  else if c = 3 then some .body
  else if c = 4 then some .tail
  else if c = 5 then some .final
  else if c = 6 then some .pack
  else none

/-- The UOP code {VAR, PHASE} (30_encoding.md R70). -/
def uopCode (s : State) : BitVec 4 := uopWord s.var s.phase.code

/-- The event a host action is, the core being idle. A write to CMD issues its low 32 bits as a command
(10_state.md R26). -/
def hostEvent (s : State) : HostAction → Event
  | .reset _ => .reset
  | .buf i b => if i < s.params.inbufCap.val then .buf i b else .refuse .noSuchCell
  | .read addr width =>
    match locateAt s addr width with
    | none => .refuse .badAccess
    | some t => .read addr width t
  | .write addr width v =>
    match locateAt s addr width with
    | none => .refuse .badAccess
    | some (.reg .cmd) => .instr (.cmd (v.setWidth 32))
    | some t => .write t v

/-- Whether the reset event is due while a command runs. -/
def resetDue : List HostAction → Bool
  | .reset 0 :: _ => true
  | _ => false

/-- What the next step does. While PHASE is not IDLE the host has no step (44_commands.md R170), and the core performs the
micro-operation of {VAR, PHASE} (R160), unless the reset event comes (70_reset_and_hazards.md R210). -/
def nextEvent (s : State) : Event :=
  if s.phase = .idle then
    match s.inputs with
    | [] => .quiet
    | a :: _ => hostEvent s a
  else if resetDue s.inputs then .reset
  else .instr (.uop (uopCode s))

/-- The host's actions left after the next step. A micro-operation uses none of them; it brings a coming reset nearer. -/
def inputsAfter (s : State) : List HostAction :=
  if s.phase = .idle then s.inputs.tail
  else
    match s.inputs with
    | .reset 0 :: rest => rest
    | .reset (n + 1) :: rest => .reset n :: rest
    | as => as

/-- The state with its host actions moved on by one step. -/
def consume (s : State) : State := { s with inputs := inputsAfter s }

/-- What a code that is no instruction does: a word outside the command map is an IllegalCommand (44_commands.md R160);
a code without a micro-operation has no step (30_encoding.md R72). -/
def undecoded (r : Reject) (s : State) : Outcome :=
  match r with
  | .illegalCommand => .next (acceptIllegal s)
  | .coreIdle | .reservedUop => .fault .stuck

/-- What a step does on an event. `run` is what running a code's instruction does; Step.lean gives it. -/
def stepEvent (run : Code → State → Outcome) (e : Event) (s : State) : Outcome :=
  match e with
  | .quiet => .next s
  | .reset => .next (resetEvent s)
  | .instr c => run c s
  | .write t v => .next (hostWrite t v s)
  | .read addr width t => hostRead addr width t s
  | .buf i b => .next (writeInbuf i b s)
  | .refuse r => .refused r

/-- The host's actions without a reset that would come before anything else. -/
def withoutDueReset : List HostAction → List HostAction
  | .reset 0 :: rest => withoutDueReset rest
  | as => as

/-- The state in which the next step runs one code: a command word is put first among the host's actions, the core being
idle; a micro-operation code goes into VAR and PHASE (log entry 6). A code that names no phase (30_encoding.md R72)
cannot be placed and changes nothing. -/
def placeCode (s : State) : Code → State
  | .cmd w => { s with phase := .idle, inputs := .write (s.params.base + regOffset .cmd) 32 (w.setWidth 64) :: s.inputs }
  | .uop c =>
    match phaseOfCode (phaseField c) with
    | none => s
    | some p => { s with var := variantOfBit (varField c), phase := p, inputs := withoutDueReset s.inputs }

end Sys2Proof.Machine
end

