-- ==== Sys2Proof/Machine/Step.lean ====
section
/-! DEFINITION. One step of the machine, and how a word is placed where the next step takes its instruction from. -/
namespace Sys2Proof.Machine

/-- Running a code: the instruction the decoder reads from it, or what a code that is none does. -/
def runCode (c : Code) (s : State) : Outcome :=
  match decode c with
  | .instr i => exec i s
  | .reject r => undecoded r s

/-- One step: one micro-operation of the core, or one action of the host (44_commands.md R160, R161, R170). -/
def step (s : State) : Host.Outcome State Fault Refusal :=
  mapNext tick (stepEvent runCode (nextEvent s) (consume s))

/-- `s` with a word of the opcode table placed so that the next step runs it. -/
def State.withFetchWord (s : State) (nbits w : Nat) : State :=
  match tableCode nbits w with
  | none => s
  | some c => placeCode s c

end Sys2Proof.Machine
end

