-- ==== Sys2Proof/Machine/Assembler.lean ====
section
/-! DEFINITION. The notation of host programs and the pseudo-instructions, as the host actions they stand for (30_encoding.md R76, R78). -/
namespace Sys2Proof.Machine

/-- A line of a host program (R76). -/
inductive Line where
  | wr (r : Reg) (v : W64)
  | rd (r : Reg)
  | rdDigest (i : Nat)
  | rdHex (j : Nat)
  | buf (index : Nat) (bytes : List Byte)
  | cmd (v : Variant) (src : Source)
  | reset
  deriving DecidableEq, Repr

/-- A pseudo-instruction (R78). `len` of `rdDigestAll` and `rdHexAll` is DLEN, which the host knows from STATUS;
`buflen` of `hashAll` is the value of BUFLEN; the seed of `newHasher128` is already the 64 bits the host chose (90 C1). -/
inductive Pseudo where
  | newHasher32 (seed : Option W64)
  | newHasher128 (seed : Option W64)
  | hashAll (v : Variant) (buflen : W64)
  | hashText (v : Variant) (text : List Byte)
  | hashInt (v : Variant) (value : W64)
  | rdViewN
  | rdDigestAll (len : Nat)
  | rdHexAll (len : Nat)
  deriving DecidableEq, Repr

/-- VARSEL of a variant (R66: VAR is VARSEL - 1). -/
def varselOf : Variant → BitVec 4
  | .x86_32 => 1
  | .x64_128 => 2

/-- SRCSEL of an input form (R66). -/
def srcselOf : Source → BitVec 4
  | .bytes => 0
  | .i32 => 1
  | .i64 => 2

/-- The bus transactions of a line (R76, third column). -/
def lineActions (p : Config.Params) : Line → List HostAction
  | .wr r v => [.write (p.base + regOffset r) (regWidth r) v]
  | .rd r => [.read (p.base + regOffset r) (regWidth r)]
  | .rdDigest i => [.read (p.base + 0x30 + i) 8]
  | .rdHex j => [.read (p.base + 0x60 + j) 8]
  | .buf index bytes => bytes.mapIdx fun k b => .buf (index + k) b
  | .cmd v src => [.write (p.base + regOffset .cmd) 32 ((cmdWord (varselOf v) (srcselOf src)).setWidth 64)]
  | .reset => [.reset 0]

/-- The lines a pseudo-instruction stands for (R78). -/
def pseudoLines (p : Config.Params) : Pseudo → List Line
  | .newHasher32 seed | .newHasher128 seed => [.wr .seed (seed.getD 0)]
  | .hashAll v n => [.wr .offset 0, .wr .length n, .cmd v .bytes]
  | .hashText v text =>
    [.buf 0 text, .wr .buflen (BitVec.ofNat 64 text.length),
      .wr .offset 0, .wr .length (BitVec.ofNat 64 text.length), .cmd v .bytes]
  | .hashInt v value =>
    match p.nativeW with
    | .w32 => [.wr .idata ((value.setWidth 32).setWidth 64), .cmd v .i32]
    | .w64 => [.wr .idata value, .cmd v .i64]
  | .rdViewN =>
    match p.nativeW with
    | .w32 => [.rd .view32]
    | .w64 => [.rd .view64]
  | .rdDigestAll n => (List.range n).map .rdDigest
  | .rdHexAll n => (List.range (2 * n)).map .rdHex

/-- The host actions of a program of lines. -/
def assemble (p : Config.Params) (ls : List Line) : List HostAction := ls.flatMap (lineActions p)

end Sys2Proof.Machine
end

