-- ==== Sys2Proof/Machine/Reference.lean ====
section
/-! DEFINITION. The closed forms of the two variants over a byte sequence (41 R108, 42 R128), which no instruction calls. -/
namespace Sys2Proof.Machine

/-- `B[a .. a+n-1]`. -/
def slice (B : List Byte) (a n : Nat) : List Byte := (B.drop a).take n

/-- `le` of a slice as a 32-bit word. -/
def word32 (B : List Byte) (a n : Nat) : W32 := BitVec.ofNat 32 (le (slice B a n))

/-- `le` of a slice as a 64-bit word. -/
def word64 (B : List Byte) (a n : Nat) : W64 := BitVec.ofNat 64 (le (slice B a n))

/-- The accumulator after the first nb blocks of B (R108's loop). -/
def blocks32 (s : W32) (B : List Byte) (nb : Nat) : W32 :=
  (List.range nb).foldl (fun h i => mixH1_32 h (mixK1_32 (word32 B (4 * i) 4))) s

/-- `Murmur32(s, B)` (R108). -/
def murmur32 (s : W32) (B : List Byte) : W32 :=
  let n := B.length
  let h := blocks32 s B (n / 4)
  let h := h ^^^ mixK1_32 (word32 B (4 * (n / 4)) (n - 4 * (n / 4)))
  fmix32 (h ^^^ BitVec.ofNat 32 n)

/-- The lanes after the first nb blocks of B (R128's loop). -/
def blocks128 (s : W64) (B : List Byte) (nb : Nat) : W64 × W64 :=
  (List.range nb).foldl
    (fun h i =>
      let n1 := blockLane1 h.1 h.2 (word64 B (16 * i) 8)
      (n1, blockLane2 n1 h.2 (word64 B (16 * i + 8) 8)))
    (s, s)

/-- `Murmur128(s, B)` (R128). -/
def murmur128 (s : W64) (B : List Byte) : W64 × W64 :=
  let n := B.length
  let h := blocks128 s B (n / 16)
  let q := 16 * (n / 16)
  let t := n - q
  let h1 := h.1 ^^^ mixK1_64 (word64 B q (min t 8))
  let h2 := h.2 ^^^ mixK2_64 (word64 B (q + 8) (n - (q + 8)))
  finalLanes h1 h2 (BitVec.ofNat 64 n)

/-- The bytes of a word, least significant first. -/
def leBytes {w : Nat} (v : BitVec w) (n : Nat) : List Byte := (List.range n).map fun i => byteAt v i

end Sys2Proof.Machine
end

