-- ==== Sys2Proof/Safety.lean ====
section
/-! DEFINITION. The terms claims use: the invariant, runs, a command's input, and what an instruction leaves alone. -/
namespace Sys2Proof.Machine

/-- The STATUS and DLEN a host can meet (10_state.md R27): no outcome, a 32-bit result, a 128-bit result, BoundsViolation,
IllegalCommand. -/
def StatusLegal (s : State) : Prop :=
  (s.status = 0x00 ∧ s.dlen = .none) ∨ (s.status = 0x01 ∧ s.dlen = .four) ∨
  (s.status = 0x41 ∧ s.dlen = .sixteen) ∨ (s.status = 0x06 ∧ s.dlen = .none) ∨
  (s.status = 0x0A ∧ s.dlen = .none)

/-- The first index beyond the selected source's range: INBUF_CAP, or the integer's width in bytes (20_memory.md R48). -/
def sourceEnd (s : State) : Nat :=
  match s.src with
  | .bytes => s.params.inbufCap.val
  | .i32 => 4
  | .i64 => 8

/-- The invariant of 40_decomposer.md R93, from the end of `LEBD.CHECK` to the end of the command. -/
structure Window (s : State) : Prop where
  remLeLen : s.rem.toNat ≤ s.len.toNat
  inSource : s.pos.toNat + s.rem.toNat ≤ sourceEnd s
  ofI32 : s.src = .i32 → s.len = 4 ∧ s.pos.toNat + s.rem.toNat = 4
  ofI64 : s.src = .i64 → s.len = 8 ∧ s.pos.toNat + s.rem.toNat = 8
  ofOffset : s.src = .bytes → s.written.offset = true → s.pos.toNat + s.rem.toNat = s.offset.toNat + s.len.toNat
  ofLength : s.src = .bytes → s.written.length = true → s.len = s.length
  ofBuflen : s.src = .bytes → s.written.buflen = true → s.pos.toNat + s.rem.toNat ≤ s.buflen.toNat

/-- What PHASE says about REM (44_commands.md R161, 40_decomposer.md R93). -/
def PhaseLegal (s : State) : Prop :=
  match s.phase with
  | .idle | .check => True
  | .init => s.rem = s.len
  | .body => blockSize s.var ≤ s.rem.toNat ∧ (s.len.toNat - s.rem.toNat) % blockSize s.var = 0
  | .tail => s.rem.toNat < blockSize s.var ∧ (s.len.toNat - s.rem.toNat) % blockSize s.var = 0
  | .final | .pack => s.rem = 0

/-- The invariant of the machine: INBUF keeps its canonical form and its range, STATUS and DLEN agree as R27 says when
the core is idle and are clear while a command runs, and R93 holds while a command runs. -/
structure Inv (s : State) : Prop where
  inbufSorted : Memory.wf s.inbuf
  inbufInside : ∀ c ∈ s.inbuf, c.1 < s.params.inbufCap.val
  outcomeIdle : s.phase = .idle → StatusLegal s
  outcomeBusy : s.phase ≠ .idle → s.status = 0x00 ∧ s.dlen = .none
  window : s.phase ≠ .idle → s.phase ≠ .check → Window s
  phaseLegal : PhaseLegal s

/-- k steps of the machine. -/
abbrev run (k : Nat) (s : State) : Outcome := Host.Core.run Sys2Proof.core k s

/-- The command word of a variant and an input form (30_encoding.md R67). -/
def commandWord : Variant → Source → W64
  | .x86_32, .bytes => 0x10
  | .x86_32, .i32 => 0x11
  | .x86_32, .i64 => 0x12
  | .x64_128, .bytes => 0x20
  | .x64_128, .i32 => 0x21
  | .x64_128, .i64 => 0x22

/-- The host's write of a command word to CMD. -/
def issue (p : Config.Params) (v : Variant) (src : Source) : HostAction :=
  .write (p.base + 0x00) 32 (commandWord v src)

/-- The host is about to issue a command, the core is idle, and no reset comes before the command has ended. -/
structure AboutToIssue (s : State) (v : Variant) (src : Source) (rest : List HostAction) : Prop where
  idle : s.phase = .idle
  next : s.inputs = issue s.params v src :: rest
  noReset : ∀ n r, rest ≠ .reset n :: r

/-- RangeOK of the operand registers, written out (40_decomposer.md R86). -/
def RangeHolds (s : State) : Prop :=
  0 ≤ s.offset.toInt ∧ 0 ≤ s.length.toInt ∧ s.offset.toInt + s.length.toInt ≤ (s.buflen.toNat : Int) ∧
  s.buflen.toNat ≤ s.params.inbufCap.val

/-- B is the input byte sequence of a command (44_commands.md R169), all of it written by the host, and for BYTES the
range check passes. -/
def InputIs (s : State) (src : Source) (B : List Byte) : Prop :=
  match src with
  | .bytes =>
    s.written.offset = true ∧ s.written.length = true ∧ s.written.buflen = true ∧ RangeHolds s ∧
    B.length = s.length.toNat ∧
    ∀ i, (h : i < B.length) → Memory.lookup s.inbuf (s.offset.toNat + i) = some B[i]
  | .i32 => s.written.idata = true ∧ B = leBytes s.idata 4
  | .i64 => s.written.idata = true ∧ B = leBytes s.idata 8

/-- What the host owns and the core never writes: the operand registers and their marks, every byte of INBUF, the
parameters. -/
structure KeepsOperands (s t : State) : Prop where
  seed : t.seed = s.seed
  idata : t.idata = s.idata
  offset : t.offset = s.offset
  length : t.length = s.length
  buflen : t.buflen = s.buflen
  written : t.written = s.written
  inbuf : t.inbuf = s.inbuf
  inbufByte : ∀ i, Memory.lookup t.inbuf i = Memory.lookup s.inbuf i
  params : t.params = s.params

/-- The model's own fields that `exec` leaves alone. -/
structure KeepsModelSide (s t : State) : Prop where
  moment : t.moment = s.moment
  inputs : t.inputs = s.inputs
  reads : t.reads = s.reads

/-- The result store and STATUS. -/
structure KeepsResult (s t : State) : Prop where
  status : t.status = s.status
  dlen : t.dlen = s.dlen
  digest : t.digest = s.digest

end Sys2Proof.Machine
end

