-- ==== Sys2Proof/Certificates/Slice0/Obligations.lean ====
section
/-! DEFINITION. The statements for the provers. -/

open Sys2Proof Sys2Proof.Machine

/-! ### Encoding -/

/-- Decode and encode agree on every instruction and every code of both formats: encoding loses nothing, decoding loses
nothing, and a code is an instruction exactly when it is well formed (30_encoding.md sections 2 and 3). -/
def Obligations.DecodeAndEncodeAgree : Prop :=
  (∀ i : Instr, i.wf = true → decode (encode i) = .instr i) ∧
  (∀ (c : Code) (i : Instr), decode c = .instr i → encode i = c) ∧
  (∀ c : Code, c.wf = true ↔ ∃ i, decode c = .instr i)

/-- R66: which words are commands, by their three fields, and what acceptance makes of VARSEL and SRCSEL. -/
def Obligations.CommandWordIsLegalByItsFields : Prop :=
  ∀ w : W32,
    ((∃ i, decode (.cmd w) = .instr i) ↔
      w.toNat / 2 ^ 8 = 0 ∧ (w.toNat / 2 ^ 4 % 2 ^ 4 = 1 ∨ w.toNat / 2 ^ 4 % 2 ^ 4 = 2) ∧
        (w.toNat % 2 ^ 4 = 0 ∨ w.toNat % 2 ^ 4 = 1 ∨ w.toNat % 2 ^ 4 = 2)) ∧
    ∀ (i : Instr) (s : State), decode (.cmd w) = .instr i → s.phase = .idle →
      ∃ t, exec i s = .next t ∧ t.var.bit.toNat = w.toNat / 2 ^ 4 % 2 ^ 4 - 1 ∧
        (srcCode t.src).toNat = w.toNat % 2 ^ 4

/-- Each command is one exact value, and every other 32-bit value is rejected as an illegal command (30_encoding.md R67,
R68). -/
def Obligations.EachCommandIsOneWord : Prop :=
  ∀ w : W32,
    (decode (.cmd w) = .instr .hash32Bytes ↔ w = 0x00000010#32) ∧
    (decode (.cmd w) = .instr .hash32I32 ↔ w = 0x00000011#32) ∧
    (decode (.cmd w) = .instr .hash32I64 ↔ w = 0x00000012#32) ∧
    (decode (.cmd w) = .instr .hash128Bytes ↔ w = 0x00000020#32) ∧
    (decode (.cmd w) = .instr .hash128I32 ↔ w = 0x00000021#32) ∧
    (decode (.cmd w) = .instr .hash128I64 ↔ w = 0x00000022#32) ∧
    (decode (.cmd w) = .reject .illegalCommand ↔
      w ∉ [0x00000010#32, 0x00000011#32, 0x00000012#32, 0x00000020#32, 0x00000021#32, 0x00000022#32])

/-- Words written out from the encoding tables decode to the instruction they stand for (95_test_vectors.md section 3). -/
def Obligations.WrittenOutCodesDecode : Prop :=
  decode (.cmd 0b00000000000000000000000000010000#32) = .instr .hash32Bytes ∧
  decode (.cmd 0b00000000000000000000000000100010#32) = .instr .hash128I64 ∧
  decode (.uop 0b0001#4) = .instr (.lebdCheck .x86_32) ∧
  decode (.uop 0b1001#4) = .instr (.lebdCheck .x64_128) ∧
  decode (.uop 0b0011#4) = .instr .m32Block ∧
  decode (.uop 0b1011#4) = .instr .m128Block ∧
  decode (.uop 0b0110#4) = .instr .pack32 ∧
  decode (.uop 0b1110#4) = .instr .pack128 ∧
  decode (.cmd 0x00000013#32) = .reject .illegalCommand ∧
  decode (.uop 0b1111#4) = .reject .reservedUop

/-! ### The step -/

/-- A word the host writes to CMD (the low 32 bits of the action's value, log entry 18), the core being idle, runs as the instruction it decodes to: the step is `exec` of it on
the state less the host's action, and the model's counter moves on (log entry 5). -/
def Obligations.StepRunsTheCommandWritten : Prop :=
  ∀ (s : State) (v : W64) (rest : List HostAction) (i : Instr),
    s.phase = .idle → s.inputs = .write (s.params.base + 0x00) 32 v :: rest →
    decode (.cmd (v.setWidth 32)) = .instr i →
    step s = mapNext tick (exec i { s with inputs := rest })

/-- While PHASE is not IDLE the code {VAR, PHASE} is some instruction and the step is `exec` of it, the host having no
step; a reset that is to come later comes one micro-operation nearer (the model's choice, log entries 7 and 8). -/
def Obligations.StepRunsTheMicroOperation : Prop :=
  ∀ s : State, s.phase ≠ .idle →
    ∃ i, decode (.uop (s.var.bit ++ s.phase.code)) = .instr i ∧
      ((∀ n rest, s.inputs ≠ .reset n :: rest) → step s = mapNext tick (exec i s)) ∧
      (∀ n rest, s.inputs = .reset (n + 1) :: rest →
        step s = mapNext tick (exec i { s with inputs := .reset n :: rest }))

/-- A word outside the command map, written to CMD: STATUS = 0x0A, no result, nothing else of the hardware changes
(44_commands.md R160, 60_exceptions.md R192, R196). -/
def Obligations.IllegalCommandIsReported : Prop :=
  ∀ (s : State) (v : W64) (rest : List HostAction),
    s.phase = .idle → s.inputs = .write (s.params.base + 0x00) 32 v :: rest →
    v.setWidth 32 ∉ [0x00000010#32, 0x00000011#32, 0x00000012#32, 0x00000020#32, 0x00000021#32, 0x00000022#32] →
    step s = .next { s with status := 0x0000000A, dlen := .none, inputs := rest, moment := s.moment + 1 }

/-! ### Commands -/

/-- Acceptance of each of the six commands (44_commands.md R160): STATUS and DLEN are cleared, VAR, SRC and PHASE are set,
nothing else changes. -/
def Obligations.AcceptanceOfTheSixCommands : Prop :=
  ∀ s : State, s.phase = .idle →
    exec .hash32Bytes s =
      .next { s with status := 0, dlen := .none, var := .x86_32, src := .bytes, phase := .check } ∧
    exec .hash32I32 s =
      .next { s with status := 0, dlen := .none, var := .x86_32, src := .i32, phase := .check } ∧
    exec .hash32I64 s =
      .next { s with status := 0, dlen := .none, var := .x86_32, src := .i64, phase := .check } ∧
    exec .hash128Bytes s =
      .next { s with status := 0, dlen := .none, var := .x64_128, src := .bytes, phase := .check } ∧
    exec .hash128I32 s =
      .next { s with status := 0, dlen := .none, var := .x64_128, src := .i32, phase := .check } ∧
    exec .hash128I64 s =
      .next { s with status := 0, dlen := .none, var := .x64_128, src := .i64, phase := .check }

/-- The model refuses a command while PHASE is not IDLE (log entry 9, after 93_implementation_defined.md I7); the step
never makes one: a running core's step is a micro-operation or a reset. -/
def Obligations.CommandsAreRefusedWhileTheCoreRuns : Prop :=
  ∀ (s : State) (i : Instr) (w : W32), s.phase ≠ .idle → decode (.cmd w) = .instr i →
    exec i s = .refused .coreBusy ∧ nextEvent s ≠ .instr (.cmd w)

/-! ### Decomposer -/

/-- R86: `RangeOK` is true exactly when all four conditions hold, on mathematical integers. -/
def Obligations.RangeOkIsTheFourConditions : Prop :=
  (∀ (cap : Nat) (o l : Int) (b : Nat),
    rangeOk cap o l b = true ↔ o ≥ 0 ∧ l ≥ 0 ∧ o + l ≤ (b : Int) ∧ b ≤ cap) ∧
  ∀ (cap : Fin (2 ^ 63)) (b : W64), rangeOk cap.val (2 ^ 63 - 1) (2 ^ 63 - 1) b.toNat = false

/-- `LEBD.CHECK` for the integer sources cannot fail: LEN is 4 or 8, POS is 0, whatever OFFSET, LENGTH and BUFLEN hold
(40_decomposer.md R87). -/
def Obligations.CheckOfAnIntegerSource : Prop :=
  ∀ (s : State) (v : Variant),
    (s.src = .i32 → exec (.lebdCheck v) s = .next { s with pos := 0, len := 4, rem := 4, phase := .init }) ∧
    (s.src = .i64 → exec (.lebdCheck v) s = .next { s with pos := 0, len := 8, rem := 8, phase := .init })

/-- `LEBD.CHECK` for SRC = BYTES: in range it fixes POS, LEN, REM, all below 2^63; out of range it takes the error entry of
BoundsViolation; nothing else changes either way (40_decomposer.md R87, 60_exceptions.md R191, R196). It is stated
for what the model reads from the three registers. Where the host has not written one of them since reset, that is the model's
choice (log entry 1): a free value, where the spec has a model refuse the command (10_state.md R39, 44_commands.md R174). -/
def Obligations.CheckOfARange : Prop :=
  ∀ (s : State) (v : Variant) (o l b : W64), s.src = .bytes →
    operand s .offset = o → operand s .length = l → operand s .buflen = b →
    ((0 ≤ o.toInt ∧ 0 ≤ l.toInt ∧ o.toInt + l.toInt ≤ (b.toNat : Int) ∧ b.toNat ≤ s.params.inbufCap.val) →
      exec (.lebdCheck v) s = .next { s with pos := o, len := l, rem := l, phase := .init } ∧
      (o.toNat : Int) = o.toInt ∧ (l.toNat : Int) = l.toInt ∧ o.toNat < 2 ^ 63 ∧ l.toNat < 2 ^ 63) ∧
    (¬ (0 ≤ o.toInt ∧ 0 ≤ l.toInt ∧ o.toInt + l.toInt ≤ (b.toNat : Int) ∧ b.toNat ≤ s.params.inbufCap.val) →
      exec (.lebdCheck v) s = .next { s with status := 0x00000006, dlen := .none, phase := .idle })

/-- What the core reads at an index of the selected source: the byte of INBUF the host wrote there, or eight bits of IDATA;
and which indices exist (20_memory.md R45 to R48). -/
def Obligations.SourceByteIsInbufOrIdata : Prop :=
  ∀ (s : State) (i : Nat),
    (s.src = .bytes → i < s.params.inbufCap.val → ∀ b, Memory.lookup s.inbuf i = some b → srcByte s i = some b) ∧
    (s.src = .bytes → (srcByte s i = none ↔ s.params.inbufCap.val ≤ i)) ∧
    (s.src ≠ .bytes → (srcByte s i = none ↔ 8 ≤ i)) ∧
    (s.src ≠ .bytes → s.written.idata = true → i < 8 →
      ∃ b, srcByte s i = some b ∧ b.toNat = s.idata.toNat / 2 ^ (8 * i) % 2 ^ 8)

/-- R13: `le` is the sum of b[i] * 2^(8*i), and `byte_i` is its inverse. -/
def Obligations.LittleEndianAssembly : Prop :=
  (∀ bs : List Byte, le bs = ∑ i : Fin bs.length, bs[i].toNat * 2 ^ (8 * i.val)) ∧
  (∀ (N : Nat) (v : BitVec N) (i : Nat), i < N / 8 → (byteAt v i).toNat = v.toNat / 2 ^ (8 * i) % 2 ^ 8) ∧
  (∀ (n : Nat) (v : BitVec (8 * n)), le (leBytes v n) = v.toNat)

/-- The decomposer's reads are the little-endian sums of the bytes at the index and after it, at any alignment
(40_decomposer.md R88, R89, R90). The last clause is the model's choice (log entry 10): a read answers nothing exactly when one
of its bytes does not exist. The rules have no error there, a read being made in range only. -/
def Obligations.DecomposerReads : Prop :=
  ∀ (s : State) (p : Nat),
    (∀ b0 b1 b2 b3, srcByte s p = some b0 → srcByte s (p + 1) = some b1 → srcByte s (p + 2) = some b2 →
      srcByte s (p + 3) = some b3 →
      ∃ k, lebdRd32 s p = some k ∧
        k.toNat = b0.toNat + b1.toNat * 2 ^ 8 + b2.toNat * 2 ^ 16 + b3.toNat * 2 ^ 24) ∧
    (∀ bs : List Byte, bs.length = 8 → (∀ i, (h : i < bs.length) → srcByte s (p + i) = some bs[i]) →
      ∃ k, lebdRd64 s p = some k ∧ k.toNat = ∑ i : Fin bs.length, bs[i].toNat * 2 ^ (8 * i.val)) ∧
    (∀ bs : List Byte, bs.length ≤ 3 → (∀ i, (h : i < bs.length) → srcByte s (p + i) = some bs[i]) →
      ∃ k, lebdRdTail32 s p bs.length = some k ∧ k.toNat = ∑ i : Fin bs.length, bs[i].toNat * 2 ^ (8 * i.val)) ∧
    (∀ bs : List Byte, bs.length ≤ 8 → (∀ i, (h : i < bs.length) → srcByte s (p + i) = some bs[i]) →
      ∃ k, lebdRdTail64 s p bs.length = some k ∧ k.toNat = ∑ i : Fin bs.length, bs[i].toNat * 2 ^ (8 * i.val)) ∧
    (∀ w n, memRead w s p n = none ↔ ∃ i, i < n ∧ srcByte s (p + i) = none)

/-! ### The mixing primitives -/

/-- R11: rotation to the left, as the rule's arithmetic and as the library's rotation, at every width. -/
def Obligations.RotationIsToTheLeft : Prop :=
  ∀ (N : Nat) (a : BitVec N) (r : Nat), 0 < r → r < N →
    (rotl a r).toNat = (a.toNat * 2 ^ r) % 2 ^ N + a.toNat / 2 ^ (N - r) ∧ rotl a r = a.rotateLeft r

/-- R101, R102, R103: the primitives of `x86_32`, with the values the rules print. -/
def Obligations.PrimitivesOfX8632 : Prop :=
  (∀ k : W32, mixK1_32 k = (k * 0xcc9e2d51#32).rotateLeft 15 * 0x1b873593#32) ∧
  (∀ h k : W32, mixH1_32 h k = (h ^^^ k).rotateLeft 13 * 5#32 + 0xe6546b64#32) ∧
  (∀ h k : W32, mixH1_32 h k = mixH1_32 k h) ∧ (∀ h : W32, mixH1_32 h h = 0xE6546B64#32) ∧
  (∀ h a b c d : W32, a.toNat = h.toNat ^^^ h.toNat / 2 ^ 16 → b = a * 0x85ebca6b#32 →
    c.toNat = b.toNat ^^^ b.toNat / 2 ^ 13 → d = c * 0xc2b2ae35#32 →
    (fmix32 h).toNat = d.toNat ^^^ d.toNat / 2 ^ 16) ∧
  mixK1_32 0#32 = 0#32 ∧ mixK1_32 1#32 = 0xC3539A5D#32 ∧ mixK1_32 0xFFFFFFFF#32 = 0xBBEEB010#32 ∧
  mixK1_32 0x80000000#32 = 0xCD64C000#32 ∧ mixK1_32 0x2C21160B#32 = 0x3C3DC230#32 ∧
  mixH1_32 0#32 0x3C3DC230#32 = 0x7FB29107#32 ∧ mixH1_32 0#32 0#32 = 0xE6546B64#32 ∧
  mixH1_32 0#32 1#32 = 0xE6550B64#32 ∧ mixH1_32 1#32 0#32 = 0xE6550B64#32 ∧
  (∀ h k : W32, (h ^^^ k).rotateLeft 13 = 0xFFFFFFFF#32 → mixH1_32 h k = 0xE6546B5F#32) ∧
  fmix32 0#32 = 0#32 ∧ fmix32 0x80000000#32 = 0x6D3C65A0#32 ∧ fmix32 0xFFFFFFFF#32 = 0x81F16F39#32 ∧
  fmix32 1#32 = 0x514E28B7#32

/-- R121, R122, R123: the primitives of `x64_128`, with the values the rules print. -/
def Obligations.PrimitivesOfX64128 : Prop :=
  (∀ k : W64, mixK1_64 k = (k * 0x87c37b91114253d5#64).rotateLeft 31 * 0x4cf5ad432745937f#64) ∧
  (∀ k : W64, mixK2_64 k = (k * 0x4cf5ad432745937f#64).rotateLeft 33 * 0x87c37b91114253d5#64) ∧
  (∀ k a b c d : W64, a.toNat = k.toNat ^^^ k.toNat / 2 ^ 33 → b = a * 0xff51afd7ed558ccd#64 →
    c.toNat = b.toNat ^^^ b.toNat / 2 ^ 33 → d = c * 0xc4ceb9fe1a85ec53#64 →
    (fmix64 k).toNat = d.toNat ^^^ d.toNat / 2 ^ 33) ∧
  mixK1_64 0#64 = 0#64 ∧ mixK1_64 0xFFFFFFFFFFFFFFFF#64 = 0x11CC7F70ECDB6E49#64 ∧
  mixK1_64 0x8000000000000000#64 = 0xC9D164DFC0000000#64 ∧ mixK1_64 1#64 = 0x34E09D0B6BDEFE38#64 ∧
  mixK1_64 0x000000002C21160B#64 = 0x558BE922B8AA59AA#64 ∧
  mixK2_64 0#64 = 0#64 ∧ mixK2_64 0xFFFFFFFFFFFFFFFF#64 = 0x4C9A36C55305E8AD#64 ∧
  mixK2_64 0x8000000000000000#64 = 0x114253D500000000#64 ∧ mixK2_64 1#64 = 0x4E26F5539BB7C37E#64 ∧
  mixK2_64 0x000000002C21160B#64 = 0xC069BE2BB2031A1D#64 ∧
  fmix64 0#64 = 0#64 ∧ fmix64 0x8000000000000000#64 = 0x8F780810AF31A493#64 ∧
  fmix64 0xFFFFFFFFFFFFFFFF#64 = 0x64B5720B4B825F21#64 ∧ fmix64 1#64 = 0xB456BCFC34C2CB2C#64

/-! ### The micro-operations of x86_32 -/

/-- `M32.INIT` (41_murmur32_mixer.md R104): code 0010; H1 is the low half of SEED; nothing but H1 and PHASE
changes. -/
def Obligations.M32InitLoadsTheLowHalfOfSeed : Prop :=
  decode (.uop 0b0010#4) = .instr .m32Init ∧
  ∀ s : State, ∃ h : W32, h.toNat = s.seed.toNat % 2 ^ 32 ∧
    exec .m32Init s = .next { s with h1 := h, phase := if 4 ≤ s.rem.toNat then .body else .tail }

/-- `M32.BLOCK` (41_murmur32_mixer.md R105) on four bytes that exist: the new H1, POS, REM and PHASE; nothing else
changes. -/
def Obligations.M32BlockMixesOneBlock : Prop :=
  ∀ (s : State) (b0 b1 b2 b3 : Byte), 4 ≤ s.rem.toNat →
    srcByte s s.pos.toNat = some b0 → srcByte s (s.pos.toNat + 1) = some b1 →
    srcByte s (s.pos.toNat + 2) = some b2 → srcByte s (s.pos.toNat + 3) = some b3 →
    ∃ k : W32, k.toNat = b0.toNat + b1.toNat * 2 ^ 8 + b2.toNat * 2 ^ 16 + b3.toNat * 2 ^ 24 ∧
      exec .m32Block s = .next { s with
        h1 := mixH1_32 s.h1 (mixK1_32 k)
        pos := s.pos + 4#64
        rem := s.rem - 4#64
        phase := if 8 ≤ s.rem.toNat then .body else .tail }

/-- `M32.TAIL` (41_murmur32_mixer.md R106) on 0 to 3 bytes that exist: no `mixH1_32`; nothing but H1, POS, REM and PHASE
changes. -/
def Obligations.M32TailMixesTheTail : Prop :=
  ∀ (s : State) (bs : List Byte), s.rem.toNat ≤ 3 → bs.length = s.rem.toNat →
    (∀ i, (h : i < bs.length) → srcByte s (s.pos.toNat + i) = some bs[i]) →
    ∃ k : W32, k.toNat = ∑ i : Fin bs.length, bs[i].toNat * 2 ^ (8 * i.val) ∧
      exec .m32Tail s = .next { s with
        h1 := s.h1 ^^^ mixK1_32 k
        pos := s.pos + s.rem
        rem := 0
        phase := .final }

/-- `M32.FINAL` (41_murmur32_mixer.md R107): code 0101; the low 32 bits of LEN enter, then the avalanche; only H1 and PHASE
change. -/
def Obligations.M32FinalAvalanches : Prop :=
  decode (.uop 0b0101#4) = .instr .m32Final ∧
  ∀ s : State, ∃ n : W32, n.toNat = s.len.toNat % 2 ^ 32 ∧
    exec .m32Final s = .next { s with h1 := fmix32 (s.h1 ^^^ n), phase := .pack }

/-! ### The micro-operations of x64_128 -/

/-- `M128.INIT` (42_murmur128_mixer.md R124): code 1010; both lanes are SEED; nothing but the lanes and PHASE changes. -/
def Obligations.M128InitLoadsSeedInBothLanes : Prop :=
  decode (.uop 0b1010#4) = .instr .m128Init ∧
  ∀ s : State,
    exec .m128Init s =
      .next { s with h1q := s.seed, h2q := s.seed, phase := if 16 ≤ s.rem.toNat then .body else .tail }

/-- `M128.BLOCK` (42_murmur128_mixer.md R125) on sixteen bytes that exist: lane 1 from the OLD lane 2, lane 2 from the NEW
lane 1; nothing but the lanes, POS, REM and PHASE changes. -/
def Obligations.M128BlockMixesOneBlock : Prop :=
  ∀ (s : State) (bs : List Byte), 16 ≤ s.rem.toNat → bs.length = 16 →
    (∀ i, (h : i < bs.length) → srcByte s (s.pos.toNat + i) = some bs[i]) →
    ∃ k1 k2 n1 n2 : W64, k1.toNat = le (bs.take 8) ∧ k2.toNat = le (bs.drop 8) ∧
      n1 = ((s.h1q ^^^ mixK1_64 k1).rotateLeft 27 + s.h2q) * 5#64 + 0x52dce729#64 ∧
      n2 = ((s.h2q ^^^ mixK2_64 k2).rotateLeft 31 + n1) * 5#64 + 0x38495ab5#64 ∧
      exec .m128Block s = .next { s with
        h1q := n1
        h2q := n2
        pos := s.pos + 16#64
        rem := s.rem - 16#64
        phase := if 32 ≤ s.rem.toNat then .body else .tail }

/-- `M128.TAIL` (42_murmur128_mixer.md R126) on 0 to 15 bytes that exist: bytes 0 to 7 go to k1, bytes 8 to 14 to k2;
nothing but the lanes, POS, REM and PHASE changes. -/
def Obligations.M128TailMixesTheTail : Prop :=
  ∀ (s : State) (bs : List Byte), s.rem.toNat ≤ 15 → bs.length = s.rem.toNat →
    (∀ i, (h : i < bs.length) → srcByte s (s.pos.toNat + i) = some bs[i]) →
    ∃ k1 k2 : W64, k1.toNat = le (bs.take 8) ∧ k2.toNat = le (bs.drop 8) ∧ k2.toNat < 2 ^ 56 ∧
      exec .m128Tail s = .next { s with
        h1q := s.h1q ^^^ mixK1_64 k1
        h2q := s.h2q ^^^ mixK2_64 k2
        pos := s.pos + s.rem
        rem := 0
        phase := .final }

/-- `M128.FINAL` (42_murmur128_mixer.md R127): code 1101; the steps of the rule; nothing but the lanes and PHASE changes. -/
def Obligations.M128FinalAvalanches : Prop :=
  decode (.uop 0b1101#4) = .instr .m128Final ∧
  ∀ (s : State) (a1 a2 b1 b2 c1 c2 d1 d2 : W64),
    a1 = s.h1q ^^^ s.len → a2 = s.h2q ^^^ s.len → b1 = a1 + a2 → b2 = a2 + b1 →
    c1 = fmix64 b1 → c2 = fmix64 b2 → d1 = c1 + c2 → d2 = c2 + d1 →
    exec .m128Final s = .next { s with h1q := d1, h2q := d2, phase := .pack }

/-- R109, R131: when REM = 0 at the TAIL micro-operation, the accumulators are unchanged: it only moves PHASE on. -/
def Obligations.ZeroTailLeavesTheAccumulators : Prop :=
  ∀ s : State, s.rem = 0 →
    exec .m32Tail s = .next { s with phase := .final } ∧ exec .m128Tail s = .next { s with phase := .final }

/-- The model's choice (log entry 10): where a TAIL's precondition fails, or a BLOCK or TAIL would read a byte that does not
exist, the machine stops with a fault. No run reaches such a state (`BusyCoreAlwaysSteps`). -/
def Obligations.MixersFaultOutsideTheirPreconditions : Prop :=
  ∀ s : State,
    (3 < s.rem.toNat → exec .m32Tail s = .fault .tailTooLong) ∧
    (15 < s.rem.toNat → exec .m128Tail s = .fault .tailTooLong) ∧
    (∀ i, i < 4 → srcByte s (s.pos.toNat + i) = none → exec .m32Block s = .fault .noSuchByte) ∧
    (∀ i, i < 16 → srcByte s (s.pos.toNat + i) = none → exec .m128Block s = .fault .noSuchByte) ∧
    (∀ i, i < s.rem.toNat → s.rem.toNat ≤ 3 → srcByte s (s.pos.toNat + i) = none →
      exec .m32Tail s = .fault .noSuchByte) ∧
    (∀ i, i < s.rem.toNat → s.rem.toNat ≤ 15 → srcByte s (s.pos.toNat + i) = none →
      exec .m128Tail s = .fault .noSuchByte)

/-! ### The packer and the views -/

/-- `PACK32` (43_result_packer.md R141): code 0110; DIGEST[0..3] are the bytes of H1, DIGEST[4..15] are not written and do
not exist for a reader, DLEN, STATUS and PHASE are set, nothing else changes. -/
def Obligations.Pack32StoresH1 : Prop :=
  decode (.uop 0b0110#4) = .instr .pack32 ∧
  ∀ s : State, ∃ d : Vector Byte 16,
    exec .pack32 s = .next { s with digest := d, dlen := .four, status := 0x00000001, phase := .idle } ∧
    (∀ i, (h : i < 16) → i < 4 → d[i].toNat = s.h1.toNat / 2 ^ (8 * i) % 2 ^ 8) ∧
    (∀ i, (h : i < 16) → 4 ≤ i → d[i] = s.digest[i]) ∧
    (∀ t, exec .pack32 s = .next t → ∀ i, 4 ≤ i → digestView t i = none)

/-- `PACK128` (43_result_packer.md R142): code 1110; DIGEST is the bytes of H1Q and then those of H2Q, DLEN, STATUS and
PHASE are set, nothing else changes. -/
def Obligations.Pack128StoresBothLanes : Prop :=
  decode (.uop 0b1110#4) = .instr .pack128 ∧
  ∀ s : State, ∃ d : Vector Byte 16,
    exec .pack128 s = .next { s with digest := d, dlen := .sixteen, status := 0x00000041, phase := .idle } ∧
    (∀ i, (h : i < 16) → i < 8 → d[i].toNat = s.h1q.toNat / 2 ^ (8 * i) % 2 ^ 8) ∧
    (∀ i, (h : i < 16) → 8 ≤ i → d[i].toNat = s.h2q.toNat / 2 ^ (8 * (i - 8)) % 2 ^ 8)

/-- The views after `PACK32` and after `PACK128` (43_result_packer.md R143 to R146): VIEW32 is H1 or the low half of H1Q,
VIEW64 is H1 zero-extended or H1Q, BITWIDTH is 32 or 128. -/
def Obligations.ViewsAfterAPack : Prop :=
  ∀ s t : State,
    (exec .pack32 s = .next t →
      view32 t = some s.h1 ∧ (∃ v, view64 t = some v ∧ v.toNat = s.h1.toNat) ∧ bitwidthView t = 32 ∧
      (∀ i, digestView t i = none ↔ 4 ≤ i) ∧ (∀ j, hexView t j = none ↔ 8 ≤ j)) ∧
    (exec .pack128 s = .next t →
      (∃ v, view32 t = some v ∧ v.toNat = s.h1q.toNat % 2 ^ 32) ∧ view64 t = some s.h1q ∧ bitwidthView t = 128 ∧
      (∀ i, digestView t i = none ↔ 16 ≤ i) ∧ (∀ j, hexView t j = none ↔ 32 ≤ j))

/-- R144: BITWIDTH is 8 * DLEN in every state, and that is what a host read of it returns. -/
def Obligations.BitwidthIsEightTimesDlen : Prop :=
  ∀ s : State, (bitwidthView s).toNat = 8 * s.dlen.toNat ∧
    (∀ t, exec .pack32 s = .next t → bitwidthView t = 32) ∧
    (∀ t, exec .pack128 s = .next t → bitwidthView t = 128) ∧
    (s.dlen = .none → bitwidthView s = 0) ∧
    (∀ rest, s.phase = .idle → s.inputs = .read (s.params.base + 0x50) 32 :: rest →
      step s = .next { s with
        reads := s.reads ++ [⟨s.params.base + 0x50, 32, BitVec.ofNat 64 (8 * s.dlen.toNat)⟩]
        inputs := rest
        moment := s.moment + 1 })

/-- The hexadecimal view (43_result_packer.md R148): character j is the code of the high nibble of byte j/2 for even j, of
the low nibble for odd j, lower case; no character from 2 * DLEN on. -/
def Obligations.HexViewIsLowerCaseHighNibbleFirst : Prop :=
  ∀ (s : State) (j : Nat),
    (∀ b, digestView s (j / 2) = some b →
      ∃ c, hexView s j = some c ∧
        c.toNat =
          let nib := if j % 2 = 0 then b.toNat / 16 else b.toNat % 16
          if nib ≤ 9 then 0x30 + nib else 0x61 + (nib - 10)) ∧
    (hexView s j = none ↔ 2 * s.dlen.toNat ≤ j)

/-- R151: view consistency of every valid result. -/
def Obligations.ViewsAreConsistent : Prop :=
  ∀ s : State, s.dlen ≠ .none →
    ∃ (v32 : W32) (v64 : W64), view32 s = some v32 ∧ view64 s = some v64 ∧
      v32.toNat = le (s.digest.toList.take 4) ∧
      v64.toNat = le (s.digest.toList.take (min s.dlen.toNat 8)) ∧
      v32 = v64.setWidth 32 ∧ (bitwidthView s).toNat = 8 * s.dlen.toNat ∧
      (∀ i, (h : i < 16) → i < s.dlen.toNat → digestView s i = some s.digest[i]) ∧
      (∀ j, j < 2 * s.dlen.toNat → ∃ b c, digestView s (j / 2) = some b ∧ hexView s j = some c ∧
        c.toNat =
          let nib := if j % 2 = 0 then b.toNat / 16 else b.toNat % 16
          if nib ≤ 9 then 0x30 + nib else 0x61 + (nib - 10))

/-- A result lasts until the next write to CMD or the next reset (43_result_packer.md R150): no other action of the host
changes DIGEST, DLEN or STATUS, and a host's write of a command word is the only event that starts the core. -/
def Obligations.ResultLastsUntilTheNextCommand : Prop :=
  ∀ s t : State, s.phase = .idle → step s = .next t →
    nextEvent s ≠ .reset → (∀ c, nextEvent s ≠ .instr c) →
    KeepsResult s t ∧ t.phase = .idle

/-! ### The sequencer and frames -/

/-- The next PHASE of every micro-operation (44_commands.md R161). -/
def Obligations.SequencerTransitions : Prop :=
  ∀ s t : State,
    (∀ v, exec (.lebdCheck v) s = .next t →
      (t.phase = .idle ∧ t.status = 0x00000006) ∨ (t.phase = .init ∧ t.status = s.status)) ∧
    (exec .m32Init s = .next t → t.phase = if t.rem.toNat ≥ 4 then .body else .tail) ∧
    (exec .m128Init s = .next t → t.phase = if t.rem.toNat ≥ 16 then .body else .tail) ∧
    (exec .m32Block s = .next t → t.phase = if t.rem.toNat ≥ 4 then .body else .tail) ∧
    (exec .m128Block s = .next t → t.phase = if t.rem.toNat ≥ 16 then .body else .tail) ∧
    (exec .m32Tail s = .next t → t.phase = .final) ∧ (exec .m128Tail s = .next t → t.phase = .final) ∧
    (exec .m32Final s = .next t → t.phase = .pack) ∧ (exec .m128Final s = .next t → t.phase = .pack) ∧
    (exec .pack32 s = .next t → t.phase = .idle) ∧ (exec .pack128 s = .next t → t.phase = .idle)

/-- Frame of every instruction: the core writes no operand register, no byte of INBUF and no parameter, and `exec` leaves
the model's own fields alone (10_state.md R21 to R25, 20_memory.md R46, 60_exceptions.md R196). -/
def Obligations.NoInstructionWritesOperandsOrInbuf : Prop :=
  ∀ (i : Instr) (s t : State), exec i s = .next t → KeepsOperands s t ∧ KeepsModelSide s t

/-- Frames by group. The commands and `LEBD.CHECK` leave the accumulators and DIGEST; the mixers of one variant leave the
other's accumulators, LEN, VAR, SRC and the result store; the packers leave the accumulators, LEN, POS, REM, VAR, SRC; LEN is
written by `LEBD.CHECK` only, VAR and SRC by the commands only (10_state.md R30 to R33, 40_decomposer.md R85). -/
def Obligations.FramesByGroup : Prop :=
  ∀ (i : Instr) (s t : State), exec i s = .next t →
    (i ∈ [.hash32Bytes, .hash32I32, .hash32I64, .hash128Bytes, .hash128I32, .hash128I64] →
      t.h1 = s.h1 ∧ t.h1q = s.h1q ∧ t.h2q = s.h2q ∧ t.len = s.len ∧ t.pos = s.pos ∧ t.rem = s.rem ∧
        t.digest = s.digest) ∧
    (∀ v, i = .lebdCheck v →
      t.h1 = s.h1 ∧ t.h1q = s.h1q ∧ t.h2q = s.h2q ∧ t.digest = s.digest ∧ t.var = s.var ∧ t.src = s.src) ∧
    (i ∈ [.m32Init, .m32Block, .m32Tail, .m32Final] →
      t.h1q = s.h1q ∧ t.h2q = s.h2q ∧ t.len = s.len ∧ t.var = s.var ∧ t.src = s.src ∧ KeepsResult s t) ∧
    (i ∈ [.m128Init, .m128Block, .m128Tail, .m128Final] →
      t.h1 = s.h1 ∧ t.len = s.len ∧ t.var = s.var ∧ t.src = s.src ∧ KeepsResult s t) ∧
    (i ∈ [.m32Init, .m32Final, .m128Init, .m128Final] → t.pos = s.pos ∧ t.rem = s.rem) ∧
    (i ∈ [.pack32, .pack128] →
      t.h1 = s.h1 ∧ t.h1q = s.h1q ∧ t.h2q = s.h2q ∧ t.len = s.len ∧ t.pos = s.pos ∧ t.rem = s.rem ∧
        t.var = s.var ∧ t.src = s.src)

/-- Whole-machine rule: an operand register changes only by a host write of it or by the reset event, and an INBUF byte only
by a host write of that byte or by the reset event (10_state.md R21 to R25, 20_memory.md R46, 44_commands.md R171). -/
def Obligations.OnlyTheHostChangesOperandsAndInbuf : Prop :=
  ∀ s t : State, step s = .next t → nextEvent s ≠ .reset →
    (t.seed = s.seed ∨ nextEvent s = .write (.reg .seed) t.seed) ∧
    (t.idata = s.idata ∨ nextEvent s = .write (.reg .idata) t.idata) ∧
    (t.offset = s.offset ∨ nextEvent s = .write (.reg .offset) t.offset) ∧
    (t.length = s.length ∨ nextEvent s = .write (.reg .length) t.length) ∧
    (t.buflen = s.buflen ∨ nextEvent s = .write (.reg .buflen) t.buflen) ∧
    (∀ i, Memory.lookup t.inbuf i = Memory.lookup s.inbuf i ∨
      ∃ b, nextEvent s = .buf i b ∧ Memory.lookup t.inbuf i = some b) ∧
    t.params = s.params

/-! ### Host accesses -/

/-- A host write of an operand register at its offset and full width (44_commands.md R171): the register takes the value
(and is now written), nothing else of the hardware changes. -/
def Obligations.HostWritesAnOperandRegister : Prop :=
  ∀ (s : State) (v : W64) (rest : List HostAction), s.phase = .idle →
    (s.inputs = .write (s.params.base + 0x08) 64 v :: rest →
      step s = .next { s with seed := v, inputs := rest, moment := s.moment + 1 }) ∧
    (s.inputs = .write (s.params.base + 0x10) 64 v :: rest →
      step s = .next { s with
        idata := v, written := { s.written with idata := true }, inputs := rest, moment := s.moment + 1 }) ∧
    (s.inputs = .write (s.params.base + 0x18) 64 v :: rest →
      step s = .next { s with
        offset := v, written := { s.written with offset := true }, inputs := rest, moment := s.moment + 1 }) ∧
    (s.inputs = .write (s.params.base + 0x20) 64 v :: rest →
      step s = .next { s with
        length := v, written := { s.written with length := true }, inputs := rest, moment := s.moment + 1 }) ∧
    (s.inputs = .write (s.params.base + 0x28) 64 v :: rest →
      step s = .next { s with
        buflen := v, written := { s.written with buflen := true }, inputs := rest, moment := s.moment + 1 })

/-- A host write to a read-only register, at its full width, or to a reserved offset is ignored (44_commands.md R171,
30_encoding.md R75): no state of the hardware changes and no error is reported. Which widths are accesses at reserved offsets is
the model's choice (log entry 12). -/
def Obligations.HostWritesElsewhereAreIgnored : Prop :=
  ∀ (s : State) (v : W64) (rest : List HostAction) (off width : Nat), s.phase = .idle →
    s.inputs = .write (s.params.base + off) width v :: rest →
    ((off ∈ [0x04, 0x40, 0x50] ∧ width = 32) ∨ (off = 0x48 ∧ width = 64) ∨
      (0x30 ≤ off ∧ off ≤ 0x3F ∧ width = 8) ∨ (0x60 ≤ off ∧ off ≤ 0x7F ∧ width = 8) ∨
      (width ∈ [8, 16, 32, 64] ∧ ((0x54 ≤ off ∧ off + width / 8 ≤ 0x60) ∨ 0x80 ≤ off))) →
    step s = .next { s with inputs := rest, moment := s.moment + 1 }

/-- A host write of an INBUF byte (44_commands.md R171): the byte takes the value, every other byte and everything else stays;
at or above INBUF_CAP there is no such cell and the model refuses. -/
def Obligations.HostWritesAnInbufByte : Prop :=
  ∀ (s : State) (i : Nat) (b : Byte) (rest : List HostAction), s.phase = .idle →
    s.inputs = .buf i b :: rest →
    (i < s.params.inbufCap.val →
      ∃ m, step s = .next { s with inbuf := m, inputs := rest, moment := s.moment + 1 } ∧
        Memory.lookup m i = some b ∧ ∀ j, j ≠ i → Memory.lookup m j = Memory.lookup s.inbuf j) ∧
    (s.params.inbufCap.val ≤ i → step s = .refused .noSuchCell)

/-- A host read returns the value of 44_commands.md R172 and changes nothing of the hardware; the value joins what the host
has read (log entry 6). An operand register the host has written returns its content. -/
def Obligations.HostReadsReturnTheValue : Prop :=
  ∀ (s : State) (rest : List HostAction) (off width : Nat) (v : W64), s.phase = .idle →
    s.inputs = .read (s.params.base + off) width :: rest →
    ((off = 0x00 ∧ width = 32 ∧ v = 0) ∨
      (off = 0x04 ∧ width = 32 ∧ v = s.status.setWidth 64) ∨
      (off = 0x08 ∧ width = 64 ∧ v = s.seed) ∨
      (off = 0x10 ∧ width = 64 ∧ s.written.idata = true ∧ v = s.idata) ∨
      (off = 0x18 ∧ width = 64 ∧ s.written.offset = true ∧ v = s.offset) ∨
      (off = 0x20 ∧ width = 64 ∧ s.written.length = true ∧ v = s.length) ∨
      (off = 0x28 ∧ width = 64 ∧ s.written.buflen = true ∧ v = s.buflen) ∨
      (∃ i b, i < 16 ∧ off = 0x30 + i ∧ width = 8 ∧ digestView s i = some b ∧ v = b.setWidth 64) ∨
      (∃ x, off = 0x40 ∧ width = 32 ∧ view32 s = some x ∧ v = x.setWidth 64) ∨
      (off = 0x48 ∧ width = 64 ∧ view64 s = some v) ∨
      (off = 0x50 ∧ width = 32 ∧ v = (bitwidthView s).setWidth 64) ∨
      (∃ j b, j < 32 ∧ off = 0x60 + j ∧ width = 8 ∧ hexView s j = some b ∧ v = b.setWidth 64)) →
    step s = .next { s with
      reads := s.reads ++ [⟨s.params.base + off, width, v⟩], inputs := rest, moment := s.moment + 1 }

/-- A host read of an operand register that the host has not written since reset completes with some value, and changes
nothing of the hardware. The value is the model's free value (log entry 1): the statement says nothing of which. -/
def Obligations.HostReadsOfUnwrittenOperandsComplete : Prop :=
  ∀ (s : State) (rest : List HostAction) (off : Nat), s.phase = .idle → off ∈ [0x10, 0x18, 0x20, 0x28] →
    s.inputs = .read (s.params.base + off) 64 :: rest →
    ∃ v, step s = .next { s with
      reads := s.reads ++ [⟨s.params.base + off, 64, v⟩], inputs := rest, moment := s.moment + 1 }

/-- A host read that has no value is refused by the model: a view without a result, a result byte or character that does not
exist, a reserved offset (43_result_packer.md R140, 44_commands.md R172, 30_encoding.md R75). -/
def Obligations.HostReadsWithoutAValueAreRefused : Prop :=
  ∀ (s : State) (rest : List HostAction) (off width : Nat), s.phase = .idle →
    s.inputs = .read (s.params.base + off) width :: rest →
    (((s.dlen = .none ∧ ((off = 0x40 ∧ width = 32) ∨ (off = 0x48 ∧ width = 64))) ∨
      (∃ i, i < 16 ∧ off = 0x30 + i ∧ width = 8 ∧ s.dlen.toNat ≤ i) ∨
      (∃ j, j < 32 ∧ off = 0x60 + j ∧ width = 8 ∧ 2 * s.dlen.toNat ≤ j)) → step s = .refused .noResult) ∧
    ((width ∈ [8, 16, 32, 64] ∧ ((0x54 ≤ off ∧ off + width / 8 ≤ 0x60) ∨ 0x80 ≤ off)) →
      step s = .refused .reservedRead)

/-- A host access, read or write, is refused unless it is of one whole register at its own offset and width, of one byte of
DIGEST, of one character of HEX, or inside the reserved offsets (30_encoding.md R75, the offsets and widths being those of the
register block, 10_state.md section 1). So is one at another width, one that starts inside a register or a byte array, and one
that straddles two. The model's choices among these: which widths are accesses at reserved offsets (log entry 12), the offsets
0x44 to 0x47 (log entry 13), and the addresses below BASE, the second clause (log entry 14). -/
def Obligations.AccessesOfTheWrongWidthAreRefused : Prop :=
  ∀ (s : State) (rest : List HostAction) (width : Nat) (v : W64), s.phase = .idle →
    (∀ off : Nat,
      (off, width) ∉ [(0x00, 32), (0x04, 32), (0x08, 64), (0x10, 64), (0x18, 64), (0x20, 64), (0x28, 64), (0x40, 32),
        (0x48, 64), (0x50, 32)] →
      ¬ (0x30 ≤ off ∧ off ≤ 0x3F ∧ width = 8) → ¬ (0x60 ≤ off ∧ off ≤ 0x7F ∧ width = 8) →
      ¬ (width ∈ [8, 16, 32, 64] ∧ ((0x54 ≤ off ∧ off + width / 8 ≤ 0x60) ∨ 0x80 ≤ off)) →
      (s.inputs = .read (s.params.base + off) width :: rest ∨
        s.inputs = .write (s.params.base + off) width v :: rest) →
      step s = .refused .badAccess) ∧
    (∀ addr : Nat, addr < s.params.base →
      (s.inputs = .read addr width :: rest ∨ s.inputs = .write addr width v :: rest) →
      step s = .refused .badAccess)

/-! ### Reset -/

/-- The reset event, the core idle or a command running (70_reset_and_hazards.md R210): SEED, STATUS, DLEN and PHASE are at
the values of 10_state.md R39, no operand register and no INBUF byte counts as written (log entries 1 and 2), and what is not the
hardware's stays (the model's choice, log entries 4, 6 and 7). -/
def Obligations.ResetEventResets : Prop :=
  ∀ (s : State) (n : Nat) (rest : List HostAction), s.inputs = .reset n :: rest → (s.phase = .idle ∨ n = 0) →
    ∃ t, step s = .next t ∧ t.seed = 0 ∧ t.status = 0 ∧ t.dlen = .none ∧ t.phase = .idle ∧
      t.written = ⟨false, false, false, false⟩ ∧ (∀ i, Memory.lookup t.inbuf i = none) ∧
      t.params = s.params ∧ t.inputs = rest ∧ t.reads = s.reads

/-- The state right after reset holds what 10_state.md R39 states. That no register but SEED and no INBUF
byte counts as written is how the model says that the rule names no value for them (log entries 1 and 2). -/
def Obligations.ResetStateIsAsStated : Prop :=
  State.reset.seed = 0 ∧ State.reset.status = 0 ∧ State.reset.dlen = .none ∧ State.reset.phase = .idle ∧
  (∀ r, isWritten State.reset r = true ↔ r = .seed) ∧ ∀ i, Memory.lookup State.reset.inbuf i = none

/-! ### Invariants -/

/-- The invariant holds at reset. -/
def Obligations.InvariantAtReset : Prop := Inv State.reset

/-- Every step keeps the invariant. -/
def Obligations.EveryStepKeepsTheInvariant : Prop :=
  ∀ s t : State, Inv s → step s = .next t → Inv t

/-- From a state of the invariant no step faults, and while a command runs every step answers a next state: the core is never
stuck (60_exceptions.md R205, 44_commands.md R168). -/
def Obligations.BusyCoreAlwaysSteps : Prop :=
  ∀ s : State, Inv s →
    (∀ r, step s ≠ .fault r) ∧ (s.phase ≠ .idle → ∃ t, step s = .next t)

/-! ### Whole commands -/

/-- A `HASH32.*` command computes `Murmur32` of the low half of SEED and its input bytes, and leaves the host's side alone
(44_commands.md R169, R162 to R164; 41_murmur32_mixer.md R108). -/
def Obligations.Hash32ComputesMurmur32 : Prop :=
  ∀ (s : State) (src : Source) (B : List Byte) (rest : List HostAction),
    AboutToIssue s .x86_32 src rest → InputIs s src B →
    ∃ t, run (6 + B.length / 4) s = .next t ∧
      t.digest.toList.take 4 = leBytes (murmur32 (s.seed.setWidth 32) B) 4 ∧
      t.dlen = .four ∧ t.status = 0x00000001 ∧ t.phase = .idle ∧
      KeepsOperands s t ∧ t.inputs = rest ∧ t.reads = s.reads

/-- A `HASH128.*` command computes `Murmur128` of SEED and its input bytes, and leaves the host's side alone
(44_commands.md R169, R165 to R167; 42_murmur128_mixer.md R128). -/
def Obligations.Hash128ComputesMurmur128 : Prop :=
  ∀ (s : State) (src : Source) (B : List Byte) (rest : List HostAction),
    AboutToIssue s .x64_128 src rest → InputIs s src B →
    ∃ t, run (6 + B.length / 16) s = .next t ∧
      t.digest.toList = leBytes (murmur128 s.seed B).1 8 ++ leBytes (murmur128 s.seed B).2 8 ∧
      t.dlen = .sixteen ∧ t.status = 0x00000041 ∧ t.phase = .idle ∧
      KeepsOperands s t ∧ t.inputs = rest ∧ t.reads = s.reads

/-- A legal command performs exactly 5 + floor(LEN / BS) micro-operations when its bounds check passes
(44_commands.md R168): after the acceptance the core is busy for exactly that many steps. -/
def Obligations.StepCountOfACommand : Prop :=
  ∀ (s : State) (v : Variant) (src : Source) (B : List Byte) (rest : List HostAction),
    AboutToIssue s v src rest → InputIs s src B →
    (∀ j, j < 5 + B.length / blockSize v → ∃ t, run (1 + j) s = .next t ∧ t.phase ≠ .idle) ∧
    ∃ t, run (1 + (5 + B.length / blockSize v)) s = .next t ∧ t.phase = .idle

/-- A byte-range command whose range check fails: after its one micro-operation STATUS = 0x06 and there is no result; VAR and
SRC hold the command's values; nothing else of the hardware has changed, no byte of INBUF having been read
(60_exceptions.md R191, R196; 44_commands.md R169). -/
def Obligations.BoundsViolationOfACommand : Prop :=
  ∀ (s : State) (v : Variant) (rest : List HostAction), AboutToIssue s v .bytes rest →
    s.written.offset = true → s.written.length = true → s.written.buflen = true → ¬ RangeHolds s →
    run 2 s = .next { s with
      status := 0x00000006, dlen := .none, var := v, src := .bytes, inputs := rest, moment := s.moment + 2 }

/-- R173: two commands of the same variant on the same input bytes and the same seed (its low half for `x86_32`) give
the same result, whatever ran before, at whatever OFFSET the bytes lie, whatever the other registers hold, an earlier error
included. -/
def Obligations.ResultDependsOnSeedAndInputOnly : Prop :=
  ∀ (s t : State) (v : Variant) (src src' : Source) (B : List Byte) (rest rest' : List HostAction),
    AboutToIssue s v src rest → AboutToIssue t v src' rest' → InputIs s src B → InputIs t src' B →
    (v = .x86_32 → s.seed.setWidth 32 = t.seed.setWidth 32) → (v = .x64_128 → s.seed = t.seed) →
    ∃ s' t', run (6 + B.length / blockSize v) s = .next s' ∧ run (6 + B.length / blockSize v) t = .next t' ∧
      s'.dlen = t'.dlen ∧ s'.status = t'.status ∧ (∀ i, digestView s' i = digestView t' i) ∧
      (∀ j, hexView s' j = hexView t' j) ∧ view32 s' = view32 t' ∧ view64 s' = view64 t'

/-- The integer forms (41_murmur32_mixer.md R110, R111; 42_murmur128_mixer.md R130): the closed forms on the little-endian
bytes of an integer. -/
def Obligations.IntegerForms : Prop :=
  (∀ (seed : W32) (v : W32), murmur32 seed (leBytes v 4) = fmix32 (mixH1_32 seed (mixK1_32 v) ^^^ 4)) ∧
  (∀ (seed : W32) (v : W64), murmur32 seed (leBytes v 8) =
    fmix32 (mixH1_32 (mixH1_32 seed (mixK1_32 (v.extractLsb' 0 32))) (mixK1_32 (v.extractLsb' 32 32)) ^^^ 8)) ∧
  (∀ (seed : W64) (v : W32), murmur128 seed (leBytes v 4) =
    finalLanes (seed ^^^ mixK1_64 (v.setWidth 64)) seed 4) ∧
  (∀ (seed v : W64), murmur128 seed (leBytes v 8) = finalLanes (seed ^^^ mixK1_64 v) seed 8)

/-- The platform-width view (43_result_packer.md R147, 30_encoding.md R78): `RD VIEWN` reads VIEW32 when NATIVE_W is 32 and
VIEW64 otherwise. -/
def Obligations.PlatformWidthView : Prop :=
  ∀ (s : State) (rest : List HostAction) (x : W32) (y : W64), s.phase = .idle → view32 s = some x → view64 s = some y →
    s.inputs = assemble s.params (pseudoLines s.params .rdViewN) ++ rest →
    ∃ t r, step s = .next t ∧ t.reads = s.reads ++ [r] ∧ t.inputs = rest ∧
      r.value = if s.params.nativeW = .w32 then x.setWidth 64 else y

/-- Hashing a text (30_encoding.md R78, 44_commands.md R162, R165): the expansion of `HASH32.TEXT` or `HASH128.TEXT`, run from
an idle core, leaves the hash of the text's bytes under SEED. -/
def Obligations.TextHashing : Prop :=
  ∀ (s : State) (v : Variant) (text : List Byte) (rest : List HostAction),
    s.phase = .idle → text.length ≤ s.params.inbufCap.val → (∀ n r, rest ≠ .reset n :: r) →
    s.inputs = assemble s.params (pseudoLines s.params (.hashText v text)) ++ rest →
    ∃ k t, run k s = .next t ∧ t.phase = .idle ∧ t.inputs = rest ∧
      (v = .x86_32 → t.status = 0x00000001 ∧
        t.digest.toList.take 4 = leBytes (murmur32 (s.seed.setWidth 32) text) 4) ∧
      (v = .x64_128 → t.status = 0x00000041 ∧
        t.digest.toList = leBytes (murmur128 s.seed text).1 8 ++ leBytes (murmur128 s.seed text).2 8)
end

