-- ==== Sys2Proof/Laws/Memory.lean ====
section
/-! SUPPORT. INBUF: read after write, every other index left alone, and the canonical form kept. -/
namespace Sys2Proof.Machine

@[simp] theorem Memory.lookup_nil (i : Nat) : Memory.lookup [] i = none := rfl

theorem Memory.lookup_cons (c : Host.Cell) (m : List Host.Cell) (i : Nat) :
    Memory.lookup (c :: m) i = if c.1 = i then some c.2 else Memory.lookup m i := rfl

/-- An index below every listed one is not listed. -/
theorem Memory.lookup_none_of_lt (m : List Host.Cell) (i : Nat) (h : ∀ c ∈ m, i < c.1) :
    Memory.lookup m i = none := by
  induction m with
  | nil => rfl
  | cons c m ih =>
    rw [Memory.lookup_cons, if_neg (Nat.ne_of_gt (h c (by simp)))]
    exact ih fun d hd => h d (by simp [hd])

/-- A read after a write to the same index gives the byte written. -/
@[simp] theorem Memory.lookup_store_same (m : List Host.Cell) (i : Nat) (b : Byte) :
    Memory.lookup (Memory.store m i b) i = some b := by
  induction m with
  | nil => simp [Memory.store, Memory.lookup]
  | cons c m ih =>
    unfold Memory.store
    split
    · simp [Memory.lookup]
    · split
      · simp [Memory.lookup]
      · next h => rw [Memory.lookup_cons, if_neg (fun e => h e.symm), ih]

/-- A write leaves every other index alone. -/
theorem Memory.lookup_store_other (m : List Host.Cell) (i j : Nat) (b : Byte) (hij : j ≠ i) :
    Memory.lookup (Memory.store m i b) j = Memory.lookup m j := by
  induction m with
  | nil => simp [Memory.store, Memory.lookup, Ne.symm hij]
  | cons c m ih =>
    unfold Memory.store
    split
    · rw [Memory.lookup_cons, if_neg (Ne.symm hij)]
    · split
      · next h => simp [Memory.lookup, ← h, Ne.symm hij]
      · rw [Memory.lookup_cons, Memory.lookup_cons, ih]

/-- The cells after a write are the one written and cells that were there. -/
theorem Memory.mem_store (m : List Host.Cell) (i : Nat) (b : Byte) (c : Host.Cell)
    (h : c ∈ Memory.store m i b) : c = (i, b) ∨ c ∈ m := by
  induction m with
  | nil => simpa [Memory.store] using h
  | cons d m ih =>
    unfold Memory.store at h
    split at h
    · simpa using h
    · split at h
      · rcases List.mem_cons.1 h with h | h
        · exact .inl h
        · exact .inr (by simp [h])
      · rcases List.mem_cons.1 h with h | h
        · exact .inr (by simp [h])
        · exact (ih h).imp id (by simp +contextual)

/-- A write keeps the canonical form. -/
theorem Memory.store_wf (m : List Host.Cell) (i : Nat) (b : Byte) (h : Memory.wf m) :
    Memory.wf (Memory.store m i b) := by
  induction m with
  | nil => simp [Memory.store, Memory.wf]
  | cons c m ih =>
    obtain ⟨hc, hm⟩ := List.pairwise_cons.1 h
    unfold Memory.store
    split
    · next hi =>
      refine List.pairwise_cons.2 ⟨fun d hd => ?_, h⟩
      rcases List.mem_cons.1 hd with rfl | hd
      · exact hi
      · exact Nat.lt_trans hi (hc d hd)
    · split
      · next hi => exact List.pairwise_cons.2 ⟨fun d hd => hi ▸ hc d hd, hm⟩
      · next hlt hne =>
        refine List.pairwise_cons.2 ⟨fun d hd => ?_, ih hm⟩
        rcases Memory.mem_store m i b d hd with rfl | hd
        · exact Nat.lt_of_le_of_ne (Nat.le_of_not_lt hlt) (Ne.symm hne)
        · exact hc d hd

/-- The reset memory has the canonical form. -/
theorem Memory.reset_wf : Memory.wf State.reset.inbuf := List.Pairwise.nil

/-- In canonical form equal contents are equal lists. -/
theorem Memory.ext_of_lookup (m n : List Host.Cell) (hm : Memory.wf m) (hn : Memory.wf n)
    (h : ∀ i, Memory.lookup m i = Memory.lookup n i) : m = n := by
  induction m generalizing n with
  | nil =>
    cases n with
    | nil => rfl
    | cons d n => simpa [Memory.lookup] using h d.1
  | cons c m ih =>
    obtain ⟨hc, hm⟩ := List.pairwise_cons.1 hm
    cases n with
    | nil => simpa [Memory.lookup] using h c.1
    | cons d n =>
      obtain ⟨hd, hn⟩ := List.pairwise_cons.1 hn
      have hcd : c.1 = d.1 := by
        rcases Nat.lt_trichotomy c.1 d.1 with hlt | heq | hgt
        · have := h c.1
          rw [Memory.lookup_none_of_lt (d :: n) c.1 (by
            intro e he
            rcases List.mem_cons.1 he with rfl | he
            · exact hlt
            · exact Nat.lt_trans hlt (hd e he))] at this
          simp [Memory.lookup] at this
        · exact heq
        · have := h d.1
          rw [Memory.lookup_none_of_lt (c :: m) d.1 (by
            intro e he
            rcases List.mem_cons.1 he with rfl | he
            · exact hgt
            · exact Nat.lt_trans hgt (hc e he))] at this
          simp [Memory.lookup] at this
      have hv : c.2 = d.2 := by simpa [Memory.lookup, hcd] using h c.1
      have hrest : m = n := ih n hm hn fun i => by
        by_cases hi : c.1 = i
        · subst hi
          rw [Memory.lookup_none_of_lt m c.1 hc, Memory.lookup_none_of_lt n c.1 fun e he => hcd ▸ hd e he]
        · have := h i
          rw [Memory.lookup_cons, Memory.lookup_cons, if_neg hi, if_neg (hcd ▸ hi)] at this
          exact this
      rw [hrest, Prod.ext hcd hv]

end Sys2Proof.Machine
end

