-- ==== Sys2Proof/Laws/Operands.lean ====
section
/-! SUPPORT. What the word operators, the byte order and the decomposer's reads can do. -/
namespace Sys2Proof.Machine

/-- The two halves of a rotation have no bit in common, so the sum is the library's rotation. -/
theorem rotl_eq_rotateLeft {n : Nat} (a : BitVec n) (r : Nat) (h : r < n) : rotl a r = a.rotateLeft r := by
  rw [rotl, BitVec.rotateLeft_def, Nat.mod_eq_of_lt h]
  refine BitVec.add_eq_or_of_and_eq_zero _ _ ?_
  ext i hi
  simp only [BitVec.getElem_and, BitVec.getElem_shiftLeft, BitVec.getElem_ushiftRight, BitVec.getElem_zero,
    Bool.and_eq_false_iff]
  by_cases hir : i < r
  · simp [hir]
  · exact .inr (BitVec.getLsbD_of_ge _ _ (by omega))

@[simp] theorem le_nil : le [] = 0 := rfl

@[simp] theorem le_cons (b : Byte) (bs : List Byte) : le (b :: bs) = b.toNat + 256 * le bs := rfl

/-- n bytes make a number below 2^(8*n). -/
theorem le_lt (bs : List Byte) : le bs < 2 ^ (8 * bs.length) := by
  induction bs with
  | nil => simp
  | cons b bs ih =>
    have hb := b.isLt
    have : 2 ^ (8 * (bs.length + 1)) = 256 * 2 ^ (8 * bs.length) := by rw [Nat.mul_add, Nat.pow_add]; omega
    simp only [le_cons, List.length_cons, this]
    omega

@[simp] theorem operand_of_written (s : State) (r : OperandReg) (h : isWritten s r = true) :
    operand s r = storedOperand s r := by simp [operand, h]

/-- A read of n source bytes: it fails exactly when one of them does not exist. -/
theorem srcBytes_eq_some_iff (s : State) (p n : Nat) (bs : List Byte) :
    srcBytes s p n = some bs ↔ bs.length = n ∧ ∀ i, (h : i < bs.length) → srcByte s (p + i) = some bs[i] := by
  induction n generalizing p bs with
  | zero =>
    constructor
    · intro h
      simp only [srcBytes, Option.some.injEq] at h
      subst h
      simp
    · rintro ⟨h, -⟩
      simp [srcBytes, List.length_eq_zero_iff.1 h]
  | succ n ih =>
    constructor
    · intro h
      unfold srcBytes at h
      split at h
      · next b bs' hb hbs =>
        simp only [Option.some.injEq] at h
        subst h
        obtain ⟨hl, hi⟩ := (ih (p + 1) bs').1 hbs
        refine ⟨by simp [hl], fun i hlt => ?_⟩
        cases i with
        | zero => exact hb
        | succ i =>
          have := hi i (by simpa using hlt)
          simpa [Nat.add_assoc, Nat.add_comm 1 i] using this
      · cases h
    · rintro ⟨hl, hi⟩
      cases bs with
      | nil => simp at hl
      | cons b bs =>
        have h0 : srcByte s p = some b := hi 0 (by simp)
        have h1 : srcBytes s (p + 1) n = some bs := (ih (p + 1) bs).2 ⟨by simpa using hl, fun i h => by
          have := hi (i + 1) (by simpa using h)
          simpa [Nat.add_assoc, Nat.add_comm 1 i] using this⟩
        simp [srcBytes, h0, h1]

/-- `MemRead` of bytes that exist is their little-endian word. -/
theorem memRead_of_bytes (w : Nat) (s : State) (p : Nat) (bs : List Byte)
    (h : ∀ i, (hi : i < bs.length) → srcByte s (p + i) = some bs[i]) :
    memRead w s p bs.length = some (BitVec.ofNat w (le bs)) := by
  simp [memRead, (srcBytes_eq_some_iff s p bs.length bs).2 ⟨rfl, h⟩]

@[simp] theorem memRead_zero (w : Nat) (s : State) (p : Nat) : memRead w s p 0 = some 0 := by
  simp [memRead, srcBytes]

theorem rangeOk_iff (cap : Nat) (o l : Int) (b : Nat) :
    rangeOk cap o l b = true ↔ 0 ≤ o ∧ 0 ≤ l ∧ o + l ≤ (b : Int) ∧ b ≤ cap := by
  simp [rangeOk, and_assoc]

end Sys2Proof.Machine
end

