-- ==== Sys2Proof/Laws/State.lean ====
section
/-! SUPPORT. For each shared update of State, one lemma per field, so that no proof unfolds the update. -/
namespace Sys2Proof.Machine

@[simp] theorem adv_seed (n : Nat) (s : State) : (adv n s).seed = s.seed := rfl
@[simp] theorem adv_idata (n : Nat) (s : State) : (adv n s).idata = s.idata := rfl
@[simp] theorem adv_offset (n : Nat) (s : State) : (adv n s).offset = s.offset := rfl
@[simp] theorem adv_length (n : Nat) (s : State) : (adv n s).length = s.length := rfl
@[simp] theorem adv_buflen (n : Nat) (s : State) : (adv n s).buflen = s.buflen := rfl
@[simp] theorem adv_status (n : Nat) (s : State) : (adv n s).status = s.status := rfl
@[simp] theorem adv_digest (n : Nat) (s : State) : (adv n s).digest = s.digest := rfl
@[simp] theorem adv_dlen (n : Nat) (s : State) : (adv n s).dlen = s.dlen := rfl
@[simp] theorem adv_h1 (n : Nat) (s : State) : (adv n s).h1 = s.h1 := rfl
@[simp] theorem adv_h1q (n : Nat) (s : State) : (adv n s).h1q = s.h1q := rfl
@[simp] theorem adv_h2q (n : Nat) (s : State) : (adv n s).h2q = s.h2q := rfl
@[simp] theorem adv_len (n : Nat) (s : State) : (adv n s).len = s.len := rfl
@[simp] theorem adv_pos (n : Nat) (s : State) : (adv n s).pos = s.pos + BitVec.ofNat 64 n := rfl
@[simp] theorem adv_rem (n : Nat) (s : State) : (adv n s).rem = s.rem - BitVec.ofNat 64 n := rfl
@[simp] theorem adv_phase (n : Nat) (s : State) : (adv n s).phase = s.phase := rfl
@[simp] theorem adv_var (n : Nat) (s : State) : (adv n s).var = s.var := rfl
@[simp] theorem adv_src (n : Nat) (s : State) : (adv n s).src = s.src := rfl
@[simp] theorem adv_inbuf (n : Nat) (s : State) : (adv n s).inbuf = s.inbuf := rfl
@[simp] theorem adv_params (n : Nat) (s : State) : (adv n s).params = s.params := rfl
@[simp] theorem adv_written (n : Nat) (s : State) : (adv n s).written = s.written := rfl
@[simp] theorem adv_moment (n : Nat) (s : State) : (adv n s).moment = s.moment := rfl
@[simp] theorem adv_inputs (n : Nat) (s : State) : (adv n s).inputs = s.inputs := rfl
@[simp] theorem adv_reads (n : Nat) (s : State) : (adv n s).reads = s.reads := rfl

@[simp] theorem toBodyOrTail_seed (v : Variant) (s : State) : (toBodyOrTail v s).seed = s.seed := rfl
@[simp] theorem toBodyOrTail_idata (v : Variant) (s : State) : (toBodyOrTail v s).idata = s.idata := rfl
@[simp] theorem toBodyOrTail_offset (v : Variant) (s : State) : (toBodyOrTail v s).offset = s.offset := rfl
@[simp] theorem toBodyOrTail_length (v : Variant) (s : State) : (toBodyOrTail v s).length = s.length := rfl
@[simp] theorem toBodyOrTail_buflen (v : Variant) (s : State) : (toBodyOrTail v s).buflen = s.buflen := rfl
@[simp] theorem toBodyOrTail_status (v : Variant) (s : State) : (toBodyOrTail v s).status = s.status := rfl
@[simp] theorem toBodyOrTail_digest (v : Variant) (s : State) : (toBodyOrTail v s).digest = s.digest := rfl
@[simp] theorem toBodyOrTail_dlen (v : Variant) (s : State) : (toBodyOrTail v s).dlen = s.dlen := rfl
@[simp] theorem toBodyOrTail_h1 (v : Variant) (s : State) : (toBodyOrTail v s).h1 = s.h1 := rfl
@[simp] theorem toBodyOrTail_h1q (v : Variant) (s : State) : (toBodyOrTail v s).h1q = s.h1q := rfl
@[simp] theorem toBodyOrTail_h2q (v : Variant) (s : State) : (toBodyOrTail v s).h2q = s.h2q := rfl
@[simp] theorem toBodyOrTail_len (v : Variant) (s : State) : (toBodyOrTail v s).len = s.len := rfl
@[simp] theorem toBodyOrTail_pos (v : Variant) (s : State) : (toBodyOrTail v s).pos = s.pos := rfl
@[simp] theorem toBodyOrTail_rem (v : Variant) (s : State) : (toBodyOrTail v s).rem = s.rem := rfl
@[simp] theorem toBodyOrTail_phase (v : Variant) (s : State) : (toBodyOrTail v s).phase = bodyOrTail v s.rem := rfl
@[simp] theorem toBodyOrTail_var (v : Variant) (s : State) : (toBodyOrTail v s).var = s.var := rfl
@[simp] theorem toBodyOrTail_src (v : Variant) (s : State) : (toBodyOrTail v s).src = s.src := rfl
@[simp] theorem toBodyOrTail_inbuf (v : Variant) (s : State) : (toBodyOrTail v s).inbuf = s.inbuf := rfl
@[simp] theorem toBodyOrTail_params (v : Variant) (s : State) : (toBodyOrTail v s).params = s.params := rfl
@[simp] theorem toBodyOrTail_written (v : Variant) (s : State) : (toBodyOrTail v s).written = s.written := rfl
@[simp] theorem toBodyOrTail_moment (v : Variant) (s : State) : (toBodyOrTail v s).moment = s.moment := rfl
@[simp] theorem toBodyOrTail_inputs (v : Variant) (s : State) : (toBodyOrTail v s).inputs = s.inputs := rfl
@[simp] theorem toBodyOrTail_reads (v : Variant) (s : State) : (toBodyOrTail v s).reads = s.reads := rfl

@[simp] theorem setWindow_seed (p l : W64) (s : State) : (setWindow p l s).seed = s.seed := rfl
@[simp] theorem setWindow_idata (p l : W64) (s : State) : (setWindow p l s).idata = s.idata := rfl
@[simp] theorem setWindow_offset (p l : W64) (s : State) : (setWindow p l s).offset = s.offset := rfl
@[simp] theorem setWindow_length (p l : W64) (s : State) : (setWindow p l s).length = s.length := rfl
@[simp] theorem setWindow_buflen (p l : W64) (s : State) : (setWindow p l s).buflen = s.buflen := rfl
@[simp] theorem setWindow_status (p l : W64) (s : State) : (setWindow p l s).status = s.status := rfl
@[simp] theorem setWindow_digest (p l : W64) (s : State) : (setWindow p l s).digest = s.digest := rfl
@[simp] theorem setWindow_dlen (p l : W64) (s : State) : (setWindow p l s).dlen = s.dlen := rfl
@[simp] theorem setWindow_h1 (p l : W64) (s : State) : (setWindow p l s).h1 = s.h1 := rfl
@[simp] theorem setWindow_h1q (p l : W64) (s : State) : (setWindow p l s).h1q = s.h1q := rfl
@[simp] theorem setWindow_h2q (p l : W64) (s : State) : (setWindow p l s).h2q = s.h2q := rfl
@[simp] theorem setWindow_len (p l : W64) (s : State) : (setWindow p l s).len = l := rfl
@[simp] theorem setWindow_pos (p l : W64) (s : State) : (setWindow p l s).pos = p := rfl
@[simp] theorem setWindow_rem (p l : W64) (s : State) : (setWindow p l s).rem = l := rfl
@[simp] theorem setWindow_phase (p l : W64) (s : State) : (setWindow p l s).phase = .init := rfl
@[simp] theorem setWindow_var (p l : W64) (s : State) : (setWindow p l s).var = s.var := rfl
@[simp] theorem setWindow_src (p l : W64) (s : State) : (setWindow p l s).src = s.src := rfl
@[simp] theorem setWindow_inbuf (p l : W64) (s : State) : (setWindow p l s).inbuf = s.inbuf := rfl
@[simp] theorem setWindow_params (p l : W64) (s : State) : (setWindow p l s).params = s.params := rfl
@[simp] theorem setWindow_written (p l : W64) (s : State) : (setWindow p l s).written = s.written := rfl
@[simp] theorem setWindow_moment (p l : W64) (s : State) : (setWindow p l s).moment = s.moment := rfl
@[simp] theorem setWindow_inputs (p l : W64) (s : State) : (setWindow p l s).inputs = s.inputs := rfl
@[simp] theorem setWindow_reads (p l : W64) (s : State) : (setWindow p l s).reads = s.reads := rfl

@[simp] theorem raiseError_seed (e : HwError) (s : State) : (raiseError e s).seed = s.seed := rfl
@[simp] theorem raiseError_idata (e : HwError) (s : State) : (raiseError e s).idata = s.idata := rfl
@[simp] theorem raiseError_offset (e : HwError) (s : State) : (raiseError e s).offset = s.offset := rfl
@[simp] theorem raiseError_length (e : HwError) (s : State) : (raiseError e s).length = s.length := rfl
@[simp] theorem raiseError_buflen (e : HwError) (s : State) : (raiseError e s).buflen = s.buflen := rfl
@[simp] theorem raiseError_status (e : HwError) (s : State) : (raiseError e s).status = statusOfError e := rfl
@[simp] theorem raiseError_digest (e : HwError) (s : State) : (raiseError e s).digest = s.digest := rfl
@[simp] theorem raiseError_dlen (e : HwError) (s : State) : (raiseError e s).dlen = .none := rfl
@[simp] theorem raiseError_h1 (e : HwError) (s : State) : (raiseError e s).h1 = s.h1 := rfl
@[simp] theorem raiseError_h1q (e : HwError) (s : State) : (raiseError e s).h1q = s.h1q := rfl
@[simp] theorem raiseError_h2q (e : HwError) (s : State) : (raiseError e s).h2q = s.h2q := rfl
@[simp] theorem raiseError_len (e : HwError) (s : State) : (raiseError e s).len = s.len := rfl
@[simp] theorem raiseError_pos (e : HwError) (s : State) : (raiseError e s).pos = s.pos := rfl
@[simp] theorem raiseError_rem (e : HwError) (s : State) : (raiseError e s).rem = s.rem := rfl
@[simp] theorem raiseError_phase (e : HwError) (s : State) : (raiseError e s).phase = .idle := rfl
@[simp] theorem raiseError_var (e : HwError) (s : State) : (raiseError e s).var = s.var := rfl
@[simp] theorem raiseError_src (e : HwError) (s : State) : (raiseError e s).src = s.src := rfl
@[simp] theorem raiseError_inbuf (e : HwError) (s : State) : (raiseError e s).inbuf = s.inbuf := rfl
@[simp] theorem raiseError_params (e : HwError) (s : State) : (raiseError e s).params = s.params := rfl
@[simp] theorem raiseError_written (e : HwError) (s : State) : (raiseError e s).written = s.written := rfl
@[simp] theorem raiseError_moment (e : HwError) (s : State) : (raiseError e s).moment = s.moment := rfl
@[simp] theorem raiseError_inputs (e : HwError) (s : State) : (raiseError e s).inputs = s.inputs := rfl
@[simp] theorem raiseError_reads (e : HwError) (s : State) : (raiseError e s).reads = s.reads := rfl

@[simp] theorem discardOutcome_seed (s : State) : (discardOutcome s).seed = s.seed := rfl
@[simp] theorem discardOutcome_idata (s : State) : (discardOutcome s).idata = s.idata := rfl
@[simp] theorem discardOutcome_offset (s : State) : (discardOutcome s).offset = s.offset := rfl
@[simp] theorem discardOutcome_length (s : State) : (discardOutcome s).length = s.length := rfl
@[simp] theorem discardOutcome_buflen (s : State) : (discardOutcome s).buflen = s.buflen := rfl
@[simp] theorem discardOutcome_status (s : State) : (discardOutcome s).status = statusClear := rfl
@[simp] theorem discardOutcome_digest (s : State) : (discardOutcome s).digest = s.digest := rfl
@[simp] theorem discardOutcome_dlen (s : State) : (discardOutcome s).dlen = .none := rfl
@[simp] theorem discardOutcome_h1 (s : State) : (discardOutcome s).h1 = s.h1 := rfl
@[simp] theorem discardOutcome_h1q (s : State) : (discardOutcome s).h1q = s.h1q := rfl
@[simp] theorem discardOutcome_h2q (s : State) : (discardOutcome s).h2q = s.h2q := rfl
@[simp] theorem discardOutcome_len (s : State) : (discardOutcome s).len = s.len := rfl
@[simp] theorem discardOutcome_pos (s : State) : (discardOutcome s).pos = s.pos := rfl
@[simp] theorem discardOutcome_rem (s : State) : (discardOutcome s).rem = s.rem := rfl
@[simp] theorem discardOutcome_phase (s : State) : (discardOutcome s).phase = s.phase := rfl
@[simp] theorem discardOutcome_var (s : State) : (discardOutcome s).var = s.var := rfl
@[simp] theorem discardOutcome_src (s : State) : (discardOutcome s).src = s.src := rfl
@[simp] theorem discardOutcome_inbuf (s : State) : (discardOutcome s).inbuf = s.inbuf := rfl
@[simp] theorem discardOutcome_params (s : State) : (discardOutcome s).params = s.params := rfl
@[simp] theorem discardOutcome_written (s : State) : (discardOutcome s).written = s.written := rfl
@[simp] theorem discardOutcome_moment (s : State) : (discardOutcome s).moment = s.moment := rfl
@[simp] theorem discardOutcome_inputs (s : State) : (discardOutcome s).inputs = s.inputs := rfl
@[simp] theorem discardOutcome_reads (s : State) : (discardOutcome s).reads = s.reads := rfl

@[simp] theorem acceptIllegal_seed (s : State) : (acceptIllegal s).seed = s.seed := rfl
@[simp] theorem acceptIllegal_idata (s : State) : (acceptIllegal s).idata = s.idata := rfl
@[simp] theorem acceptIllegal_offset (s : State) : (acceptIllegal s).offset = s.offset := rfl
@[simp] theorem acceptIllegal_length (s : State) : (acceptIllegal s).length = s.length := rfl
@[simp] theorem acceptIllegal_buflen (s : State) : (acceptIllegal s).buflen = s.buflen := rfl
@[simp] theorem acceptIllegal_status (s : State) : (acceptIllegal s).status = statusOfError .illegalCommand := rfl
@[simp] theorem acceptIllegal_digest (s : State) : (acceptIllegal s).digest = s.digest := rfl
@[simp] theorem acceptIllegal_dlen (s : State) : (acceptIllegal s).dlen = .none := rfl
@[simp] theorem acceptIllegal_h1 (s : State) : (acceptIllegal s).h1 = s.h1 := rfl
@[simp] theorem acceptIllegal_h1q (s : State) : (acceptIllegal s).h1q = s.h1q := rfl
@[simp] theorem acceptIllegal_h2q (s : State) : (acceptIllegal s).h2q = s.h2q := rfl
@[simp] theorem acceptIllegal_len (s : State) : (acceptIllegal s).len = s.len := rfl
@[simp] theorem acceptIllegal_pos (s : State) : (acceptIllegal s).pos = s.pos := rfl
@[simp] theorem acceptIllegal_rem (s : State) : (acceptIllegal s).rem = s.rem := rfl
@[simp] theorem acceptIllegal_phase (s : State) : (acceptIllegal s).phase = .idle := rfl
@[simp] theorem acceptIllegal_var (s : State) : (acceptIllegal s).var = s.var := rfl
@[simp] theorem acceptIllegal_src (s : State) : (acceptIllegal s).src = s.src := rfl
@[simp] theorem acceptIllegal_inbuf (s : State) : (acceptIllegal s).inbuf = s.inbuf := rfl
@[simp] theorem acceptIllegal_params (s : State) : (acceptIllegal s).params = s.params := rfl
@[simp] theorem acceptIllegal_written (s : State) : (acceptIllegal s).written = s.written := rfl
@[simp] theorem acceptIllegal_moment (s : State) : (acceptIllegal s).moment = s.moment := rfl
@[simp] theorem acceptIllegal_inputs (s : State) : (acceptIllegal s).inputs = s.inputs := rfl
@[simp] theorem acceptIllegal_reads (s : State) : (acceptIllegal s).reads = s.reads := rfl

@[simp] theorem writeInbuf_seed (i : Nat) (b : Byte) (s : State) : (writeInbuf i b s).seed = s.seed := rfl
@[simp] theorem writeInbuf_idata (i : Nat) (b : Byte) (s : State) : (writeInbuf i b s).idata = s.idata := rfl
@[simp] theorem writeInbuf_offset (i : Nat) (b : Byte) (s : State) : (writeInbuf i b s).offset = s.offset := rfl
@[simp] theorem writeInbuf_length (i : Nat) (b : Byte) (s : State) : (writeInbuf i b s).length = s.length := rfl
@[simp] theorem writeInbuf_buflen (i : Nat) (b : Byte) (s : State) : (writeInbuf i b s).buflen = s.buflen := rfl
@[simp] theorem writeInbuf_status (i : Nat) (b : Byte) (s : State) : (writeInbuf i b s).status = s.status := rfl
@[simp] theorem writeInbuf_digest (i : Nat) (b : Byte) (s : State) : (writeInbuf i b s).digest = s.digest := rfl
@[simp] theorem writeInbuf_dlen (i : Nat) (b : Byte) (s : State) : (writeInbuf i b s).dlen = s.dlen := rfl
@[simp] theorem writeInbuf_h1 (i : Nat) (b : Byte) (s : State) : (writeInbuf i b s).h1 = s.h1 := rfl
@[simp] theorem writeInbuf_h1q (i : Nat) (b : Byte) (s : State) : (writeInbuf i b s).h1q = s.h1q := rfl
@[simp] theorem writeInbuf_h2q (i : Nat) (b : Byte) (s : State) : (writeInbuf i b s).h2q = s.h2q := rfl
@[simp] theorem writeInbuf_len (i : Nat) (b : Byte) (s : State) : (writeInbuf i b s).len = s.len := rfl
@[simp] theorem writeInbuf_pos (i : Nat) (b : Byte) (s : State) : (writeInbuf i b s).pos = s.pos := rfl
@[simp] theorem writeInbuf_rem (i : Nat) (b : Byte) (s : State) : (writeInbuf i b s).rem = s.rem := rfl
@[simp] theorem writeInbuf_phase (i : Nat) (b : Byte) (s : State) : (writeInbuf i b s).phase = s.phase := rfl
@[simp] theorem writeInbuf_var (i : Nat) (b : Byte) (s : State) : (writeInbuf i b s).var = s.var := rfl
@[simp] theorem writeInbuf_src (i : Nat) (b : Byte) (s : State) : (writeInbuf i b s).src = s.src := rfl
@[simp] theorem writeInbuf_inbuf (i : Nat) (b : Byte) (s : State) : (writeInbuf i b s).inbuf = Memory.store s.inbuf i b := rfl
@[simp] theorem writeInbuf_params (i : Nat) (b : Byte) (s : State) : (writeInbuf i b s).params = s.params := rfl
@[simp] theorem writeInbuf_written (i : Nat) (b : Byte) (s : State) : (writeInbuf i b s).written = s.written := rfl
@[simp] theorem writeInbuf_moment (i : Nat) (b : Byte) (s : State) : (writeInbuf i b s).moment = s.moment := rfl
@[simp] theorem writeInbuf_inputs (i : Nat) (b : Byte) (s : State) : (writeInbuf i b s).inputs = s.inputs := rfl
@[simp] theorem writeInbuf_reads (i : Nat) (b : Byte) (s : State) : (writeInbuf i b s).reads = s.reads := rfl

@[simp] theorem tick_seed (s : State) : (tick s).seed = s.seed := rfl
@[simp] theorem tick_idata (s : State) : (tick s).idata = s.idata := rfl
@[simp] theorem tick_offset (s : State) : (tick s).offset = s.offset := rfl
@[simp] theorem tick_length (s : State) : (tick s).length = s.length := rfl
@[simp] theorem tick_buflen (s : State) : (tick s).buflen = s.buflen := rfl
@[simp] theorem tick_status (s : State) : (tick s).status = s.status := rfl
@[simp] theorem tick_digest (s : State) : (tick s).digest = s.digest := rfl
@[simp] theorem tick_dlen (s : State) : (tick s).dlen = s.dlen := rfl
@[simp] theorem tick_h1 (s : State) : (tick s).h1 = s.h1 := rfl
@[simp] theorem tick_h1q (s : State) : (tick s).h1q = s.h1q := rfl
@[simp] theorem tick_h2q (s : State) : (tick s).h2q = s.h2q := rfl
@[simp] theorem tick_len (s : State) : (tick s).len = s.len := rfl
@[simp] theorem tick_pos (s : State) : (tick s).pos = s.pos := rfl
@[simp] theorem tick_rem (s : State) : (tick s).rem = s.rem := rfl
@[simp] theorem tick_phase (s : State) : (tick s).phase = s.phase := rfl
@[simp] theorem tick_var (s : State) : (tick s).var = s.var := rfl
@[simp] theorem tick_src (s : State) : (tick s).src = s.src := rfl
@[simp] theorem tick_inbuf (s : State) : (tick s).inbuf = s.inbuf := rfl
@[simp] theorem tick_params (s : State) : (tick s).params = s.params := rfl
@[simp] theorem tick_written (s : State) : (tick s).written = s.written := rfl
@[simp] theorem tick_moment (s : State) : (tick s).moment = s.moment + 1 := rfl
@[simp] theorem tick_inputs (s : State) : (tick s).inputs = s.inputs := rfl
@[simp] theorem tick_reads (s : State) : (tick s).reads = s.reads := rfl

@[simp] theorem consume_seed (s : State) : (consume s).seed = s.seed := rfl
@[simp] theorem consume_idata (s : State) : (consume s).idata = s.idata := rfl
@[simp] theorem consume_offset (s : State) : (consume s).offset = s.offset := rfl
@[simp] theorem consume_length (s : State) : (consume s).length = s.length := rfl
@[simp] theorem consume_buflen (s : State) : (consume s).buflen = s.buflen := rfl
@[simp] theorem consume_status (s : State) : (consume s).status = s.status := rfl
@[simp] theorem consume_digest (s : State) : (consume s).digest = s.digest := rfl
@[simp] theorem consume_dlen (s : State) : (consume s).dlen = s.dlen := rfl
@[simp] theorem consume_h1 (s : State) : (consume s).h1 = s.h1 := rfl
@[simp] theorem consume_h1q (s : State) : (consume s).h1q = s.h1q := rfl
@[simp] theorem consume_h2q (s : State) : (consume s).h2q = s.h2q := rfl
@[simp] theorem consume_len (s : State) : (consume s).len = s.len := rfl
@[simp] theorem consume_pos (s : State) : (consume s).pos = s.pos := rfl
@[simp] theorem consume_rem (s : State) : (consume s).rem = s.rem := rfl
@[simp] theorem consume_phase (s : State) : (consume s).phase = s.phase := rfl
@[simp] theorem consume_var (s : State) : (consume s).var = s.var := rfl
@[simp] theorem consume_src (s : State) : (consume s).src = s.src := rfl
@[simp] theorem consume_inbuf (s : State) : (consume s).inbuf = s.inbuf := rfl
@[simp] theorem consume_params (s : State) : (consume s).params = s.params := rfl
@[simp] theorem consume_written (s : State) : (consume s).written = s.written := rfl
@[simp] theorem consume_moment (s : State) : (consume s).moment = s.moment := rfl
@[simp] theorem consume_inputs (s : State) : (consume s).inputs = inputsAfter s := rfl
@[simp] theorem consume_reads (s : State) : (consume s).reads = s.reads := rfl

@[simp] theorem resetEvent_seed (s : State) : (resetEvent s).seed = State.reset.seed := rfl
@[simp] theorem resetEvent_idata (s : State) : (resetEvent s).idata = State.reset.idata := rfl
@[simp] theorem resetEvent_offset (s : State) : (resetEvent s).offset = State.reset.offset := rfl
@[simp] theorem resetEvent_length (s : State) : (resetEvent s).length = State.reset.length := rfl
@[simp] theorem resetEvent_buflen (s : State) : (resetEvent s).buflen = State.reset.buflen := rfl
@[simp] theorem resetEvent_status (s : State) : (resetEvent s).status = State.reset.status := rfl
@[simp] theorem resetEvent_digest (s : State) : (resetEvent s).digest = State.reset.digest := rfl
@[simp] theorem resetEvent_dlen (s : State) : (resetEvent s).dlen = State.reset.dlen := rfl
@[simp] theorem resetEvent_h1 (s : State) : (resetEvent s).h1 = State.reset.h1 := rfl
@[simp] theorem resetEvent_h1q (s : State) : (resetEvent s).h1q = State.reset.h1q := rfl
@[simp] theorem resetEvent_h2q (s : State) : (resetEvent s).h2q = State.reset.h2q := rfl
@[simp] theorem resetEvent_len (s : State) : (resetEvent s).len = State.reset.len := rfl
@[simp] theorem resetEvent_pos (s : State) : (resetEvent s).pos = State.reset.pos := rfl
@[simp] theorem resetEvent_rem (s : State) : (resetEvent s).rem = State.reset.rem := rfl
@[simp] theorem resetEvent_phase (s : State) : (resetEvent s).phase = State.reset.phase := rfl
@[simp] theorem resetEvent_var (s : State) : (resetEvent s).var = State.reset.var := rfl
@[simp] theorem resetEvent_src (s : State) : (resetEvent s).src = State.reset.src := rfl
@[simp] theorem resetEvent_inbuf (s : State) : (resetEvent s).inbuf = State.reset.inbuf := rfl
@[simp] theorem resetEvent_params (s : State) : (resetEvent s).params = s.params := rfl
@[simp] theorem resetEvent_written (s : State) : (resetEvent s).written = State.reset.written := rfl
@[simp] theorem resetEvent_moment (s : State) : (resetEvent s).moment = s.moment := rfl
@[simp] theorem resetEvent_inputs (s : State) : (resetEvent s).inputs = s.inputs := rfl
@[simp] theorem resetEvent_reads (s : State) : (resetEvent s).reads = s.reads := rfl

@[simp] theorem writeOperand_seed (r : OperandReg) (v : W64) (s : State) :
    (writeOperand r v s).seed = if r = .seed then v else s.seed := by cases r <;> rfl
@[simp] theorem writeOperand_idata (r : OperandReg) (v : W64) (s : State) :
    (writeOperand r v s).idata = if r = .idata then v else s.idata := by cases r <;> rfl
@[simp] theorem writeOperand_offset (r : OperandReg) (v : W64) (s : State) :
    (writeOperand r v s).offset = if r = .offset then v else s.offset := by cases r <;> rfl
@[simp] theorem writeOperand_length (r : OperandReg) (v : W64) (s : State) :
    (writeOperand r v s).length = if r = .length then v else s.length := by cases r <;> rfl
@[simp] theorem writeOperand_buflen (r : OperandReg) (v : W64) (s : State) :
    (writeOperand r v s).buflen = if r = .buflen then v else s.buflen := by cases r <;> rfl
@[simp] theorem writeOperand_status (r : OperandReg) (v : W64) (s : State) :
    (writeOperand r v s).status = s.status := by cases r <;> rfl
@[simp] theorem writeOperand_digest (r : OperandReg) (v : W64) (s : State) :
    (writeOperand r v s).digest = s.digest := by cases r <;> rfl
@[simp] theorem writeOperand_dlen (r : OperandReg) (v : W64) (s : State) :
    (writeOperand r v s).dlen = s.dlen := by cases r <;> rfl
@[simp] theorem writeOperand_h1 (r : OperandReg) (v : W64) (s : State) :
    (writeOperand r v s).h1 = s.h1 := by cases r <;> rfl
@[simp] theorem writeOperand_h1q (r : OperandReg) (v : W64) (s : State) :
    (writeOperand r v s).h1q = s.h1q := by cases r <;> rfl
@[simp] theorem writeOperand_h2q (r : OperandReg) (v : W64) (s : State) :
    (writeOperand r v s).h2q = s.h2q := by cases r <;> rfl
@[simp] theorem writeOperand_len (r : OperandReg) (v : W64) (s : State) :
    (writeOperand r v s).len = s.len := by cases r <;> rfl
@[simp] theorem writeOperand_pos (r : OperandReg) (v : W64) (s : State) :
    (writeOperand r v s).pos = s.pos := by cases r <;> rfl
@[simp] theorem writeOperand_rem (r : OperandReg) (v : W64) (s : State) :
    (writeOperand r v s).rem = s.rem := by cases r <;> rfl
@[simp] theorem writeOperand_phase (r : OperandReg) (v : W64) (s : State) :
    (writeOperand r v s).phase = s.phase := by cases r <;> rfl
@[simp] theorem writeOperand_var (r : OperandReg) (v : W64) (s : State) :
    (writeOperand r v s).var = s.var := by cases r <;> rfl
@[simp] theorem writeOperand_src (r : OperandReg) (v : W64) (s : State) :
    (writeOperand r v s).src = s.src := by cases r <;> rfl
@[simp] theorem writeOperand_inbuf (r : OperandReg) (v : W64) (s : State) :
    (writeOperand r v s).inbuf = s.inbuf := by cases r <;> rfl
@[simp] theorem writeOperand_params (r : OperandReg) (v : W64) (s : State) :
    (writeOperand r v s).params = s.params := by cases r <;> rfl
@[simp] theorem writeOperand_written_idata (r : OperandReg) (v : W64) (s : State) :
    (writeOperand r v s).written.idata = (decide (r = .idata) || s.written.idata) := by cases r <;> simp [writeOperand]
@[simp] theorem writeOperand_written_offset (r : OperandReg) (v : W64) (s : State) :
    (writeOperand r v s).written.offset = (decide (r = .offset) || s.written.offset) := by cases r <;> simp [writeOperand]
@[simp] theorem writeOperand_written_length (r : OperandReg) (v : W64) (s : State) :
    (writeOperand r v s).written.length = (decide (r = .length) || s.written.length) := by cases r <;> simp [writeOperand]
@[simp] theorem writeOperand_written_buflen (r : OperandReg) (v : W64) (s : State) :
    (writeOperand r v s).written.buflen = (decide (r = .buflen) || s.written.buflen) := by cases r <;> simp [writeOperand]
@[simp] theorem writeOperand_moment (r : OperandReg) (v : W64) (s : State) :
    (writeOperand r v s).moment = s.moment := by cases r <;> rfl
@[simp] theorem writeOperand_inputs (r : OperandReg) (v : W64) (s : State) :
    (writeOperand r v s).inputs = s.inputs := by cases r <;> rfl
@[simp] theorem writeOperand_reads (r : OperandReg) (v : W64) (s : State) :
    (writeOperand r v s).reads = s.reads := by cases r <;> rfl

end Sys2Proof.Machine
end

