-- ==== Sys2Proof/Laws/Ops.lean ====
section
/-! SUPPORT. For each shared operation, once, everything it can do. -/
namespace Sys2Proof.Machine

@[simp] theorem mapNext_next (f : State → State) (s : State) : mapNext f (.next s) = .next (f s) := rfl
@[simp] theorem mapNext_fault (f : State → State) (r : Fault) : mapNext f (.fault r) = .fault r := rfl
@[simp] theorem mapNext_refused (f : State → State) (r : Refusal) : mapNext f (.refused r) = .refused r := rfl

theorem mapNext_eq_next (f : State → State) (o : Outcome) (t : State) (h : mapNext f o = .next t) :
    ∃ u, o = .next u ∧ t = f u := by
  cases o with
  | next u => exact ⟨u, rfl, by simpa using h.symm⟩
  | fault r => cases h
  | refused r => cases h

theorem mapNext_eq_fault (f : State → State) (o : Outcome) (r : Fault) (h : mapNext f o = .fault r) :
    o = .fault r := by
  cases o with
  | next u => cases h
  | fault q => simpa using h
  | refused q => cases h

@[simp] theorem blockSize_x86_32 : blockSize .x86_32 = 4 := rfl
@[simp] theorem blockSize_x64_128 : blockSize .x64_128 = 16 := rfl

theorem bodyOrTail_x86_32 (rem : W64) : bodyOrTail .x86_32 rem = if 4 ≤ rem.toNat then .body else .tail := rfl
theorem bodyOrTail_x64_128 (rem : W64) : bodyOrTail .x64_128 rem = if 16 ≤ rem.toNat then .body else .tail := rfl

theorem bodyOrTail_body (v : Variant) (rem : W64) (h : blockSize v ≤ rem.toNat) : bodyOrTail v rem = .body :=
  if_pos h

theorem bodyOrTail_tail (v : Variant) (rem : W64) (h : rem.toNat < blockSize v) : bodyOrTail v rem = .tail :=
  if_neg (Nat.not_le.2 h)

/-- REM after an advance that REM has the bytes for. -/
theorem rem_sub_toNat (rem : W64) (n : Nat) (h : n ≤ rem.toNat) :
    (rem - BitVec.ofNat 64 n).toNat = rem.toNat - n := by
  have hlt := rem.isLt
  rw [BitVec.toNat_sub, BitVec.toNat_ofNat]
  omega

/-- The choice after a block of `x86_32`, in terms of REM before it. -/
theorem bodyOrTail_sub_4 (rem : W64) (h : 4 ≤ rem.toNat) :
    bodyOrTail .x86_32 (rem - 4#64) = if 8 ≤ rem.toNat then .body else .tail := by
  have hs := rem_sub_toNat rem 4 h
  by_cases h2 : 8 ≤ rem.toNat
  · rw [if_pos h2, bodyOrTail_body _ _ (by simp only [blockSize_x86_32]; omega)]
  · rw [if_neg h2, bodyOrTail_tail _ _ (by simp only [blockSize_x86_32]; omega)]

/-- The choice after a block of `x64_128`, in terms of REM before it. -/
theorem bodyOrTail_sub_16 (rem : W64) (h : 16 ≤ rem.toNat) :
    bodyOrTail .x64_128 (rem - 16#64) = if 32 ≤ rem.toNat then .body else .tail := by
  have hs := rem_sub_toNat rem 16 h
  by_cases h2 : 32 ≤ rem.toNat
  · rw [if_pos h2, bodyOrTail_body _ _ (by simp only [blockSize_x64_128]; omega)]
  · rw [if_neg h2, bodyOrTail_tail _ _ (by simp only [blockSize_x64_128]; omega)]

/-- The state after a block of `x86_32`, field by field, for any new accumulator. -/
theorem after_block_32 (s : State) (h : W32) :
    toBodyOrTail .x86_32 (adv 4 { s with h1 := h }) =
      { s with h1 := h, pos := s.pos + 4#64, rem := s.rem - 4#64, phase := bodyOrTail .x86_32 (s.rem - 4#64) } := rfl

/-- The state after a block of `x64_128`, field by field, for any new lanes. -/
theorem after_block_128 (s : State) (h k : W64) :
    toBodyOrTail .x64_128 (adv 16 { s with h1q := h, h2q := k }) =
      { s with
        h1q := h
        h2q := k
        pos := s.pos + 16#64
        rem := s.rem - 16#64
        phase := bodyOrTail .x64_128 (s.rem - 16#64) } := rfl

/-- The state after the tail of `x86_32`: all that remained is used up. -/
theorem after_tail_32 (s : State) (h : W32) :
    ({ adv s.rem.toNat { s with h1 := h } with phase := .final } : State) =
      { s with h1 := h, pos := s.pos + s.rem, rem := 0, phase := .final } := by
  simp [adv]

/-- The state after the tail of `x64_128`. -/
theorem after_tail_128 (s : State) (h k : W64) :
    ({ adv s.rem.toNat { s with h1q := h, h2q := k } with phase := .final } : State) =
      { s with h1q := h, h2q := k, pos := s.pos + s.rem, rem := 0, phase := .final } := by
  simp [adv]

/-- Acceptance answers a next state only when the core is idle, and then this one. -/
theorem accept_eq_next (v : Variant) (src : Source) (s t : State) (h : accept v src s = .next t) :
    s.phase = .idle ∧ t = { discardOutcome s with var := v, src := src, phase := .check } := by
  unfold accept at h
  split at h
  · next hp => exact ⟨hp, by simpa using h.symm⟩
  · cases h

theorem memWrite_getElem {w : Nat} (d : Vector Byte 16) (addr n : Nat) (v : BitVec w) (i : Nat) (h : i < 16) :
    (memWrite d addr n v)[i] = if addr ≤ i ∧ i < addr + n then byteAt v (i - addr) else d[i] := by
  simp [memWrite]

/-- REM and POS after an advance that REM has the bytes for. -/
theorem adv_rem_toNat (n : Nat) (s : State) (h : n ≤ s.rem.toNat) : (adv n s).rem.toNat = s.rem.toNat - n := by
  have := s.rem.isLt
  simp only [adv_rem, BitVec.toNat_sub, BitVec.toNat_ofNat]
  omega

theorem adv_pos_toNat (n : Nat) (s : State) (h : s.pos.toNat + n < 2 ^ 64) :
    (adv n s).pos.toNat = s.pos.toNat + n := by
  simp only [adv_pos, BitVec.toNat_add, BitVec.toNat_ofNat]
  omega

end Sys2Proof.Machine
end

