-- ==== Sys2Proof/Laws/Step.lean ====
section
/-! SUPPORT. What a step and the branching meanings can do when they answer a next state. -/
namespace Sys2Proof.Machine

/-- A step that answers a next state did its event on the state with the host's actions moved on, and ticked. -/
theorem step_eq_next (s t : State) (h : step s = .next t) :
    ∃ u, stepEvent runCode (nextEvent s) (consume s) = .next u ∧ t = tick u :=
  mapNext_eq_next tick _ t h

theorem step_eq_fault (s : State) (r : Fault) (h : step s = .fault r) :
    stepEvent runCode (nextEvent s) (consume s) = .fault r :=
  mapNext_eq_fault tick _ r h

/-- What the next event can be. -/
theorem nextEvent_cases (s : State) :
    (s.phase = .idle ∧ s.inputs = [] ∧ nextEvent s = .quiet) ∨
    (∃ a rest, s.phase = .idle ∧ s.inputs = a :: rest ∧ nextEvent s = hostEvent s a) ∨
    (∃ rest, s.phase ≠ .idle ∧ s.inputs = .reset 0 :: rest ∧ nextEvent s = .reset) ∨
    (s.phase ≠ .idle ∧ resetDue s.inputs = false ∧ nextEvent s = .instr (.uop (uopCode s))) := by
  unfold nextEvent
  split
  · next hp =>
    split
    · next hi => exact .inl ⟨hp, hi, rfl⟩
    · next a rest hi => exact .inr (.inl ⟨a, rest, hp, hi, rfl⟩)
  · next hp =>
    split
    · next hr =>
      unfold resetDue at hr
      split at hr
      · next rest hi => exact .inr (.inr (.inl ⟨rest, hp, hi, rfl⟩))
      · cases hr
    · next hr => exact .inr (.inr (.inr ⟨hp, by simpa using hr, rfl⟩))

/-- The only commands an event carries are the low 32 bits of a host write to CMD. -/
theorem hostEvent_eq_instr (s : State) (a : HostAction) (c : Code) (h : hostEvent s a = .instr c) :
    ∃ addr width v, a = .write addr width v ∧ locateAt s addr width = some (.reg .cmd) ∧ c = .cmd (v.setWidth 32) := by
  cases a with
  | write addr width v =>
    simp only [hostEvent] at h
    split at h
    · cases h
    · next hl => exact ⟨addr, width, v, rfl, hl, by simpa using h.symm⟩
    · cases h
  | read addr width => simp only [hostEvent] at h; split at h <;> cases h
  | buf i b => simp only [hostEvent] at h; split at h <;> cases h
  | reset n => cases h

/-- The micro-operation of each variant and phase that is not idle: the map of 30_encoding.md R71. -/
theorem decode_uopWord (v : Variant) (p : Phase) :
    decode (.uop (uopWord v p.code)) =
      match p, v with
      | .idle, _ => .reject .coreIdle
      | .check, v => .instr (.lebdCheck v)
      | .init, .x86_32 => .instr .m32Init
      | .body, .x86_32 => .instr .m32Block
      | .tail, .x86_32 => .instr .m32Tail
      | .final, .x86_32 => .instr .m32Final
      | .pack, .x86_32 => .instr .pack32
      | .init, .x64_128 => .instr .m128Init
      | .body, .x64_128 => .instr .m128Block
      | .tail, .x64_128 => .instr .m128Tail
      | .final, .x64_128 => .instr .m128Final
      | .pack, .x64_128 => .instr .pack128 := by
  cases v <;> cases p <;> decide

theorem execM32Block_eq_next (s t : State) (h : execM32Block s = .next t) :
    ∃ k, lebdRd32 s s.pos.toNat = some k ∧
      t = { s with
        h1 := mixH1_32 s.h1 (mixK1_32 k)
        pos := s.pos + 4#64
        rem := s.rem - 4#64
        phase := bodyOrTail .x86_32 (s.rem - 4#64) } := by
  unfold execM32Block at h
  split at h
  · cases h
  · next k hk =>
    rw [after_block_32] at h
    exact ⟨k, hk, (Host.Outcome.next.inj h).symm⟩

theorem execM32Tail_eq_next (s t : State) (h : execM32Tail s = .next t) :
    s.rem.toNat ≤ 3 ∧ ∃ k, lebdRdTail32 s s.pos.toNat s.rem.toNat = some k ∧
      t = { s with h1 := s.h1 ^^^ mixK1_32 k, pos := s.pos + s.rem, rem := 0, phase := .final } := by
  simp only [execM32Tail] at h
  split at h
  · next ht =>
    split at h
    · cases h
    · next k hk =>
      rw [after_tail_32] at h
      exact ⟨ht, k, hk, (Host.Outcome.next.inj h).symm⟩
  · cases h

theorem execM128Block_eq_next (s t : State) (h : execM128Block s = .next t) :
    ∃ k1 k2, lebdRd64 s s.pos.toNat = some k1 ∧ lebdRd64 s (s.pos.toNat + 8) = some k2 ∧
      t = { s with
        h1q := blockLane1 s.h1q s.h2q k1
        h2q := blockLane2 (blockLane1 s.h1q s.h2q k1) s.h2q k2
        pos := s.pos + 16#64
        rem := s.rem - 16#64
        phase := bodyOrTail .x64_128 (s.rem - 16#64) } := by
  simp only [execM128Block] at h
  split at h
  · next k1 k2 h1 h2 =>
    rw [after_block_128] at h
    exact ⟨k1, k2, h1, h2, (Host.Outcome.next.inj h).symm⟩
  · cases h

theorem execM128Tail_eq_next (s t : State) (h : execM128Tail s = .next t) :
    s.rem.toNat ≤ 15 ∧ ∃ k1 k2, lebdRdTail64 s s.pos.toNat (min s.rem.toNat 8) = some k1 ∧
      lebdRdTail64 s (s.pos.toNat + 8) (s.rem.toNat - min s.rem.toNat 8) = some k2 ∧
      t = { s with
        h1q := s.h1q ^^^ mixK1_64 k1
        h2q := s.h2q ^^^ mixK2_64 k2
        pos := s.pos + s.rem
        rem := 0
        phase := .final } := by
  simp only [execM128Tail] at h
  split at h
  · next ht =>
    split at h
    · next k1 k2 h1 h2 =>
      rw [after_tail_128] at h
      exact ⟨ht, k1, k2, h1, h2, (Host.Outcome.next.inj h).symm⟩
    · cases h
  · cases h

/-! What the branching meanings answer when the bytes are there. The new accumulators are named by an equation of their own, so
that a proof about the next state's other fields never meets the mixing functions. -/

theorem execM32Block_next (s : State) (k : W32) (hk : lebdRd32 s s.pos.toNat = some k) :
    ∃ h, h = mixH1_32 s.h1 (mixK1_32 k) ∧
      execM32Block s = .next { s with
        h1 := h
        pos := s.pos + 4#64
        rem := s.rem - 4#64
        phase := bodyOrTail .x86_32 (s.rem - 4#64) } := by
  refine ⟨_, rfl, ?_⟩
  rw [← after_block_32, execM32Block, hk]

theorem execM32Tail_next (s : State) (k : W32) (ht : s.rem.toNat ≤ 3)
    (hk : lebdRdTail32 s s.pos.toNat s.rem.toNat = some k) :
    ∃ h, h = s.h1 ^^^ mixK1_32 k ∧
      execM32Tail s = .next { s with h1 := h, pos := s.pos + s.rem, rem := 0, phase := .final } := by
  refine ⟨_, rfl, ?_⟩
  simp only [← after_tail_32, execM32Tail, if_pos ht, hk]

theorem execM128Block_next (s : State) (k1 k2 : W64) (h1 : lebdRd64 s s.pos.toNat = some k1)
    (h2 : lebdRd64 s (s.pos.toNat + 8) = some k2) :
    ∃ n1 n2, n1 = blockLane1 s.h1q s.h2q k1 ∧ n2 = blockLane2 n1 s.h2q k2 ∧
      execM128Block s = .next { s with
        h1q := n1
        h2q := n2
        pos := s.pos + 16#64
        rem := s.rem - 16#64
        phase := bodyOrTail .x64_128 (s.rem - 16#64) } := by
  refine ⟨_, _, rfl, rfl, ?_⟩
  rw [← after_block_128, execM128Block, h1, h2]

theorem execM128Tail_next (s : State) (k1 k2 : W64) (ht : s.rem.toNat ≤ 15)
    (h1 : lebdRdTail64 s s.pos.toNat (min s.rem.toNat 8) = some k1)
    (h2 : lebdRdTail64 s (s.pos.toNat + 8) (s.rem.toNat - min s.rem.toNat 8) = some k2) :
    ∃ n1 n2, n1 = s.h1q ^^^ mixK1_64 k1 ∧ n2 = s.h2q ^^^ mixK2_64 k2 ∧
      execM128Tail s = .next { s with h1q := n1, h2q := n2, pos := s.pos + s.rem, rem := 0, phase := .final } := by
  refine ⟨_, _, rfl, rfl, ?_⟩
  simp only [← after_tail_128, execM128Tail, if_pos ht, h1, h2]

end Sys2Proof.Machine
end

