-- ==== Sys2Proof/Laws/HostPort.lean ====
section
/-! SUPPORT. The register map as the host reaches it: what each access reaches, all that `locate` can answer, and the step of
an idle core on the host's next action. -/
namespace Sys2Proof.Machine

theorem locateAt_base_add (s : State) (off width : Nat) : locateAt s (s.params.base + off) width = locate off width := by
  simp [locateAt]

theorem locateAt_below_base (s : State) (addr width : Nat) (h : addr < s.params.base) : locateAt s addr width = none :=
  if_neg (Nat.not_le.2 h)

theorem locate_reg (r : Reg) : locate (regOffset r) (regWidth r) = some (.reg r) := by
  cases r <;> decide

theorem locate_digest (i : Nat) (h : i < 16) : locate (0x30 + i) 8 = some (.digest i) := by
  have all : ∀ i : Fin 16, locate (0x30 + i) 8 = some (.digest i) := by decide
  exact all ⟨i, h⟩

theorem locate_hex (j : Nat) (h : j < 32) : locate (0x60 + j) 8 = some (.hex j) := by
  have all : ∀ j : Fin 32, locate (0x60 + j) 8 = some (.hex j) := by decide
  exact all ⟨j, h⟩

theorem allReserved_iff (off n : Nat) :
    allReserved off n = true ↔ (0x54 ≤ off ∧ off + n ≤ 0x60) ∨ 0x80 ≤ off := by
  simp [allReserved]

/-- All that `locate` can answer: a register at its own offset and width, a byte of DIGEST, a character of HEX, or a reserved
access. -/
theorem locate_eq_some (off width : Nat) (t : Target) (h : locate off width = some t) :
    (∃ r, t = .reg r ∧ off = regOffset r ∧ width = regWidth r) ∨
    (∃ i, t = .digest i ∧ i < 16 ∧ off = 0x30 + i ∧ width = 8) ∨
    (∃ j, t = .hex j ∧ j < 32 ∧ off = 0x60 + j ∧ width = 8) ∨
    (t = .reserved ∧ (width = 8 ∨ width = 16 ∨ width = 32 ∨ width = 64) ∧
      ((0x54 ≤ off ∧ off + width / 8 ≤ 0x60) ∨ 0x80 ≤ off)) := by
  unfold locate at h
  split at h
  · next r hr =>
    have hw := List.find?_some hr
    simp only [Bool.and_eq_true, decide_eq_true_eq] at hw
    exact .inl ⟨r, (Option.some.inj h).symm, hw.1.symm, hw.2.symm⟩
  · split at h
    · next hd => exact .inr (.inl ⟨off - 0x30, (Option.some.inj h).symm, by omega, by omega, hd.1⟩)
    · split at h
      · next hx => exact .inr (.inr (.inl ⟨off - 0x60, (Option.some.inj h).symm, by omega, by omega, hx.1⟩))
      · split at h
        · next hr => exact .inr (.inr (.inr ⟨(Option.some.inj h).symm, hr.1, (allReserved_iff _ _).1 hr.2⟩))
        · cases h

/-- An access inside the reserved offsets, of a width the model takes there (log entry 12). -/
theorem locate_reserved (off width : Nat) (hw : width = 8 ∨ width = 16 ∨ width = 32 ∨ width = 64)
    (h : (0x54 ≤ off ∧ off + width / 8 ≤ 0x60) ∨ 0x80 ≤ off) : locate off width = some .reserved := by
  have hnone : regTable.find? (fun r => regOffset r = off && regWidth r = width) = none := by
    rw [List.find?_eq_none]
    intro r _ hr
    simp only [Bool.and_eq_true, decide_eq_true_eq] at hr
    have hoff : regOffset r ≤ 0x50 := by cases r <;> decide
    omega
  unfold locate
  rw [hnone]
  simp only
  rw [if_neg (by omega), if_neg (by omega), if_pos ⟨hw, (allReserved_iff _ _).2 h⟩]

/-- The host's actions still to come have no part in what a read returns. -/
theorem readTarget_inputs (s : State) (as : List HostAction) (t : Target) :
    readTarget { s with inputs := as } t = readTarget s t := by
  cases t with
  | reg r => cases r <;> rfl
  | digest i => rfl
  | hex j => rfl
  | reserved => rfl

/-- The step of an idle core whose host has an action to come. -/
theorem step_of_idle (s : State) (a : HostAction) (rest : List HostAction) (hp : s.phase = .idle)
    (hi : s.inputs = a :: rest) :
    step s = mapNext tick (stepEvent runCode (hostEvent s a) { s with inputs := rest }) := by
  simp [step, nextEvent, hp, hi, consume, inputsAfter]

end Sys2Proof.Machine
end

