-- ==== Sys2Proof/Laws/PerInstr.lean ====
section
/-! SUPPORT. What holds of every instruction as syntax, one lemma per constructor. -/
namespace Sys2Proof.Laws.EncodesLegally

/-- The encoding of a well-formed instruction is a well-formed code of its format. -/
def Statement (i : Instr) : Prop := i.wf = true → (encode i).wf = true

theorem hash32Bytes : Statement .hash32Bytes := fun _ => by decide
theorem hash32I32 : Statement .hash32I32 := fun _ => by decide
theorem hash32I64 : Statement .hash32I64 := fun _ => by decide
theorem hash128Bytes : Statement .hash128Bytes := fun _ => by decide
theorem hash128I32 : Statement .hash128I32 := fun _ => by decide
theorem hash128I64 : Statement .hash128I64 := fun _ => by decide
theorem lebdCheck (var : Variant) : Statement (.lebdCheck var) := fun _ => by cases var <;> decide
theorem m32Init : Statement .m32Init := fun _ => by decide
theorem m32Block : Statement .m32Block := fun _ => by decide
theorem m32Tail : Statement .m32Tail := fun _ => by decide
theorem m32Final : Statement .m32Final := fun _ => by decide
theorem pack32 : Statement .pack32 := fun _ => by decide
theorem m128Init : Statement .m128Init := fun _ => by decide
theorem m128Block : Statement .m128Block := fun _ => by decide
theorem m128Tail : Statement .m128Tail := fun _ => by decide
theorem m128Final : Statement .m128Final := fun _ => by decide
theorem pack128 : Statement .pack128 := fun _ => by decide

end Sys2Proof.Laws.EncodesLegally
end

