-- ==== Sys2Proof/Tests/Slice0.lean ====
section
/-! SUPPORT. The model's own tests: the smoke of the well-formedness checks, one decoding per constructor, one or two steps per
instruction with the values of 95_test_vectors.md, and for every statement with hypotheses the states that meet them. -/
namespace Sys2Proof.Tests
open Sys2Proof.Machine

/-! ### Helpers -/

/-- An idle machine, right after reset, whose host has these actions to come. -/
def idleWith (as : List HostAction) : State := { State.reset with inputs := as }

/-- A machine in the middle of a command. -/
def busyIn (v : Variant) (p : Phase) : State := { State.reset with var := v, phase := p }

/-- Bytes written into INBUF from index `at0` on, and all operand registers written. -/
def loadedAt (at0 : Nat) (bs : List Byte) : State :=
  { State.reset with
    inbuf := bs.mapIdx fun i b => (at0 + i, b)
    offset := BitVec.ofNat 64 at0
    length := BitVec.ofNat 64 bs.length
    buflen := BitVec.ofNat 64 (at0 + bs.length)
    pos := BitVec.ofNat 64 at0
    len := BitVec.ofNat 64 bs.length
    rem := BitVec.ofNat 64 bs.length
    written := { idata := true, offset := true, length := true, buflen := true } }

/-- The last bytes of INBUF, up to INBUF_CAP = 4096. -/
def loadedAtEnd (bs : List Byte) : State := loadedAt (4096 - bs.length) bs

/-- Whether an outcome is a next state that passes a test. -/
def nextIs (test : State → Bool) : Outcome → Bool
  | .next t => test t
  | .fault _ => false
  | .refused _ => false

/-- Whether an outcome is a next state. -/
def isNext : Outcome → Bool := nextIs fun _ => true

/-- The bytes 00, 01, ..., n-1. -/
def counting (n : Nat) : List Byte := (List.range n).map fun i => BitVec.ofNat 8 i

/-! ### Well-formedness: one ill-formed word per check (30_encoding.md R66, R71, R72; words of 95 section 3) -/

theorem test_wf_zero_field : cmdWordWf 0x00000110#32 = false ∧ cmdWordWf 0x80000010#32 = false := by decide
theorem test_wf_varsel : cmdWordWf 0x00000000#32 = false ∧ cmdWordWf 0x00000030#32 = false := by decide
theorem test_wf_srcsel : cmdWordWf 0x00000013#32 = false ∧ cmdWordWf 0x0000002F#32 = false := by decide
theorem test_wf_uop_idle : uopCodeWf 0b0000#4 = false ∧ uopCodeWf 0b1000#4 = false := by decide
theorem test_wf_uop_reserved : uopCodeWf 0b0111#4 = false ∧ uopCodeWf 0b1111#4 = false := by decide
theorem test_wf_accepts : cmdWordWf 0x00000022#32 = true ∧ uopCodeWf 0b1110#4 = true := by decide

/-! ### Decoding: every constructor's word, bit by bit (30_encoding.md R67, R71), and back -/

theorem test_decode_hash32Bytes : decode (.cmd 0b00000000000000000000000000010000#32) = .instr .hash32Bytes := by decide
theorem test_decode_hash32I32 : decode (.cmd 0b00000000000000000000000000010001#32) = .instr .hash32I32 := by decide
theorem test_decode_hash32I64 : decode (.cmd 0b00000000000000000000000000010010#32) = .instr .hash32I64 := by decide
theorem test_decode_hash128Bytes : decode (.cmd 0b00000000000000000000000000100000#32) = .instr .hash128Bytes := by decide
theorem test_decode_hash128I32 : decode (.cmd 0b00000000000000000000000000100001#32) = .instr .hash128I32 := by decide
theorem test_decode_hash128I64 : decode (.cmd 0b00000000000000000000000000100010#32) = .instr .hash128I64 := by decide
theorem test_decode_lebdCheck :
    decode (.uop 0b0001#4) = .instr (.lebdCheck .x86_32) ∧ decode (.uop 0b1001#4) = .instr (.lebdCheck .x64_128) := by decide
theorem test_decode_m32Init : decode (.uop 0b0010#4) = .instr .m32Init := by decide
theorem test_decode_m32Block : decode (.uop 0b0011#4) = .instr .m32Block := by decide
theorem test_decode_m32Tail : decode (.uop 0b0100#4) = .instr .m32Tail := by decide
theorem test_decode_m32Final : decode (.uop 0b0101#4) = .instr .m32Final := by decide
theorem test_decode_pack32 : decode (.uop 0b0110#4) = .instr .pack32 := by decide
theorem test_decode_m128Init : decode (.uop 0b1010#4) = .instr .m128Init := by decide
theorem test_decode_m128Block : decode (.uop 0b1011#4) = .instr .m128Block := by decide
theorem test_decode_m128Tail : decode (.uop 0b1100#4) = .instr .m128Tail := by decide
theorem test_decode_m128Final : decode (.uop 0b1101#4) = .instr .m128Final := by decide
theorem test_decode_pack128 : decode (.uop 0b1110#4) = .instr .pack128 := by decide
theorem test_decode_rejects :
    decode (.cmd 0x00010010#32) = .reject .illegalCommand ∧ decode (.uop 0b1000#4) = .reject .coreIdle ∧
    decode (.uop 0b0111#4) = .reject .reservedUop := by decide
theorem test_encode : encode .hash128I32 = .cmd 0x00000021#32 ∧ encode .m128Tail = .uop 0b1100#4 := by decide
theorem test_table_word :
    decodeTableWord 32 0x12 = some .hash32I64 ∧ decodeTableWord 8 0b1101 = some .m128Final ∧
    decodeTableWord 32 0x30 = none ∧ decodeTableWord 8 0x13 = none := by decide

/-! ### Commands (95 section 2.7, 44_commands.md R160) -/

theorem test_accept_hash32 :
    nextIs (fun t => t.var == .x86_32 && t.src == .i64 && t.phase == .check && t.status == 0)
      (exec .hash32I64 { State.reset with status := 0x06 }) = true := by decide
theorem test_accept_hash128 :
    nextIs (fun t => t.var == .x64_128 && t.src == .bytes && t.dlen == .none)
      (exec .hash128Bytes { State.reset with status := 0x41, dlen := .sixteen }) = true := by decide
theorem test_accept_forms :
    nextIs (fun t => t.src == .bytes) (exec .hash32Bytes State.reset) = true ∧
    nextIs (fun t => t.src == .i32) (exec .hash32I32 State.reset) = true ∧
    nextIs (fun t => t.src == .i32) (exec .hash128I32 State.reset) = true ∧
    nextIs (fun t => t.src == .i64) (exec .hash128I64 State.reset) = true := by decide
/-- The row `0x00000013`, "any, also OFFSET = -1": STATUS = 0x0A. -/
theorem test_illegal_command :
    nextIs (fun t => t.status == 0x0A && t.dlen == .none && t.phase == .idle)
      (step { idleWith [.write 0x00 32 0x13] with status := 0x01, dlen := .four }) = true := by decide
theorem test_fetch_word :
    nextIs (fun t => t.phase == .check && t.src == .i32) (step (State.reset.withFetchWord 32 0x11)) = true ∧
    nextIs (fun t => t.phase == .idle && t.dlen == .sixteen) (step (State.reset.withFetchWord 8 0b1110)) = true := by decide

/-! ### Decomposer (95 section 2.1) -/

/-- OFFSET = 3, LENGTH = 12, BUFLEN = 16 gives POS = 3, LEN = 12, REM = 12. -/
theorem test_check_in_range :
    nextIs (fun t => t.pos == 3 && t.len == 12 && t.rem == 12 && t.phase == .init)
      (exec (.lebdCheck .x86_32) (loadedAt 3 (counting 12))) = true := by decide
/-- OFFSET = -1, LENGTH = 2, BUFLEN = 4: BoundsViolation although the sum is 1. -/
theorem test_check_out_of_range :
    nextIs (fun t => t.status == 0x06 && t.phase == .idle)
      (exec (.lebdCheck .x64_128) { loadedAt 0 (counting 4) with offset := 0xFFFFFFFFFFFFFFFF, length := 2 }) = true := by decide
theorem test_range_vectors :
    rangeOk 4096 4 0 4 = true ∧ rangeOk 4096 5 0 4 = false ∧ rangeOk 4096 3 14 16 = false ∧
    rangeOk 4096 2 (-1) 4 = false ∧ rangeOk 4096 9223372036854775807 9223372036854775807 4096 = false ∧
    rangeOk 4096 0 4096 4096 = true ∧ rangeOk 4096 0 0 4097 = false := by decide
theorem test_read_vectors :
    lebdRd32 (loadedAt 1 [0x0B, 0x16, 0x21, 0x2C]) 1 = some 0x2C21160B#32 ∧
    lebdRd64 (loadedAt 0 (counting 16)) 8 = some 0x0F0E0D0C0B0A0908#64 ∧
    lebdRdTail32 (loadedAt 0 [0xAA, 0xBB, 0xCC]) 0 3 = some 0x00CCBBAA#32 := by decide

/-! ### murmur32_mixer (95 section 2.2) -/

theorem test_m32Init :
    nextIs (fun t => t.h1 == 0x12345678#32 && t.phase == .tail)
      (exec .m32Init { loadedAt 0 (counting 3) with seed := 0xFFFFFFFF12345678 }) = true := by decide
theorem test_m32Block :
    nextIs (fun t => t.h1 == 0x7FB29107#32 && t.pos == 4 && t.rem == 0 && t.phase == .tail)
      (exec .m32Block (loadedAt 0 [0x0B, 0x16, 0x21, 0x2C])) = true := by decide
theorem test_m32Block_again :
    nextIs (fun t => t.h1 == 0x4D32D1F5#32 && t.pos == 4 && t.rem == 4 && t.phase == .body)
      (exec .m32Block { loadedAt 0 (counting 8) with src := .i64, idata := 0x1122334455667788, pos := 0 }) = true := by decide
/-- H1 xor `mixK1_32(0x00CCBBAA)` = 0x76B47688. -/
theorem test_m32Tail :
    nextIs (fun t => t.h1 == 0x2A#32 ^^^ 0x76B47688#32 && t.rem == 0 && t.pos == 3 && t.phase == .final)
      (exec .m32Tail { loadedAt 0 [0xAA, 0xBB, 0xCC] with h1 := 0x2A }) = true := by decide
theorem test_m32Final :
    nextIs (fun t => t.h1 == 0x676F0E97#32 && t.phase == .pack)
      (exec .m32Final { State.reset with h1 := 0x7FB29107, len := 4 }) = true := by decide
theorem test_rotl_32 : rotl 0x12345678#32 13 = 0x8ACF0246#32 ∧ rotl 0x80000000#32 1 = 0x00000001#32 := by decide
theorem test_murmur32 :
    murmur32 1 [0x68, 0x65, 0x6C, 0x6C, 0x6F, 0x2C, 0x20, 0x77, 0x6F, 0x72, 0x6C, 0x64] = 0x6F5CB2E9 := by decide

/-! ### murmur128_mixer (95 section 2.3) -/

theorem test_m128Init :
    nextIs (fun t => t.h1q == 0x2A#64 && t.h2q == 0x2A#64 && t.phase == .body)
      (exec .m128Init { loadedAt 0 (counting 16) with seed := 0x2A }) = true := by decide
theorem test_m128Block :
    nextIs (fun t => t.h1q == 0xDCAC505EA5C458DF#64 && t.h2q == 0x72927C4BE244042D#64 && t.rem == 1 && t.phase == .tail)
      (exec .m128Block (loadedAt 0 (counting 17))) = true := by decide
/-- The 31-byte row: k1 = 0x1716151413121110, k2 = 0x001E1D1C1B1A1918. -/
theorem test_m128Tail_longest :
    nextIs (fun t => t.h1q == 0xF91B73D7ACE37FFD#64 && t.h2q == 0x8721374424D44A90#64 && t.phase == .final)
      (exec .m128Tail { loadedAt 0 (counting 31) with
        h1q := 0xDCAC505EA5C458DF, h2q := 0x72927C4BE244042D, pos := 16, rem := 15 }) = true := by decide
/-- The 17-byte row: k1 = 0x10, lane 2 stays. -/
theorem test_m128Tail_one_byte :
    nextIs (fun t => t.h1q == 0xC40CBC8D5DD827A7#64 && t.h2q == 0x72927C4BE244042D#64)
      (exec .m128Tail { loadedAt 0 (counting 17) with
        h1q := 0xDCAC505EA5C458DF, h2q := 0x72927C4BE244042D, pos := 16, rem := 1 }) = true := by decide
theorem test_m128Final :
    nextIs (fun t => t.h1q == 0x5C76F40F9FE7C20E#64 && t.h2q == 0xC15F026B9EDAA824#64 && t.phase == .pack)
      (exec .m128Final { State.reset with h1q := 0xC40CBC8D5DD827A7, h2q := 0x72927C4BE244042D, len := 17 }) = true := by decide
theorem test_murmur128 :
    murmur128 0x2A [1, 2, 3, 4, 5, 6, 7, 8, 9] = (0xEB135446BB9641DC, 0x0E384058E10F4AAC) := by decide

/-! ### Packer and views (95 section 2.4) -/

theorem test_pack32 :
    nextIs (fun t => t.digest.toList.take 4 == [0x97, 0x0E, 0x6F, 0x67] && t.status == 0x01 && t.dlen == .four &&
        view64 t == some 0x00000000676F0E97#64)
      (exec .pack32 { State.reset with h1 := 0x676F0E97 }) = true := by decide
theorem test_pack128 :
    nextIs (fun t => t.digest.toList == [0xEF, 0xCD, 0xAB, 0x89, 0x67, 0x45, 0x23, 0x01, 0x10, 0x32, 0x54, 0x76, 0x98, 0xBA, 0xDC, 0xFE] &&
        t.status == 0x41 && view32 t == some 0x89ABCDEF#32)
      (exec .pack128 { State.reset with h1q := 0x0123456789ABCDEF, h2q := 0xFEDCBA9876543210 }) = true := by decide
/-- The text "970e6f67" as character codes. -/
theorem test_hex :
    nextIs (fun t => (List.range 9).map (hexView t) ==
        [some 0x39, some 0x37, some 0x30, some 0x65, some 0x36, some 0x66, some 0x36, some 0x37, none])
      (exec .pack32 { State.reset with h1 := 0x676F0E97 }) = true := by decide

/-! ### Witnesses: for each statement with hypotheses, states and operands that meet them, at the ends of their ranges -/

theorem witness_DecodeAndEncodeAgree :
    Instr.wf (.lebdCheck .x64_128) = true ∧ decode (.uop 0b1110#4) = .instr .pack128 := by decide

theorem witness_CommandWordIsLegalByItsFields :
    decode (.cmd 0x00000022#32) = .instr .hash128I64 ∧ decode (.cmd 0x00000010#32) = .instr .hash32Bytes ∧
    State.reset.phase = .idle := by decide

theorem witness_StepRunsTheCommandWritten :
    let s := idleWith [.write 0 32 0x22, .read 4 32]
    s.phase = .idle ∧ s.inputs = .write (s.params.base + 0x00) 32 0x22 :: [.read 4 32] ∧
      decode (.cmd ((0x22 : W64).setWidth 32)) = .instr .hash128I64 := by decide

theorem witness_StepRunsTheMicroOperation :
    (busyIn .x64_128 .pack).phase ≠ .idle ∧ (busyIn .x86_32 .check).phase ≠ .idle := by decide

theorem witness_StepRunsTheMicroOperation_with_reset_to_come :
    let s : State := { busyIn .x64_128 .check with inputs := [.reset 1] }
    s.phase ≠ .idle ∧ s.inputs = .reset (0 + 1) :: [] := by decide

theorem witness_IllegalCommandIsReported :
    let s := idleWith [.write 0 32 0x13]
    s.phase = .idle ∧ s.inputs = .write (s.params.base + 0x00) 32 0x13 :: [] ∧
      (0x13 : W64).setWidth 32 ∉
        [0x00000010#32, 0x00000011#32, 0x00000012#32, 0x00000020#32, 0x00000021#32, 0x00000022#32] := by decide

theorem witness_AcceptanceOfTheSixCommands : State.reset.phase = .idle := by decide

theorem witness_CommandsAreRefusedWhileTheCoreRuns :
    (busyIn .x86_32 .body).phase ≠ .idle ∧ decode (.cmd 0x00000010#32) = .instr .hash32Bytes := by decide

theorem witness_CheckOfAnIntegerSource :
    ({ State.reset with src := .i32 } : State).src = .i32 ∧ ({ State.reset with src := .i64 } : State).src = .i64 := by
  decide

/-- In range: BUFLEN = INBUF_CAP, and the empty range at the very end. -/
theorem witness_CheckOfARange_in_range :
    (let s : State := { loadedAt 0 [] with length := 4096, buflen := 4096 }
     s.src = .bytes ∧ checkOk s = true) ∧
    (let s : State := { loadedAt 0 [] with offset := 4, buflen := 4 }
     s.src = .bytes ∧ checkOk s = true) := by decide

/-- Out of range: one past the end, one above INBUF_CAP, and each sign. -/
theorem witness_CheckOfARange_out_of_range :
    checkOk { loadedAt 0 [] with offset := 5, buflen := 4 } = false ∧
    checkOk { loadedAt 0 [] with buflen := 4097 } = false ∧
    checkOk { loadedAt 0 [] with offset := 0x8000000000000000, buflen := 4 } = false ∧
    checkOk { loadedAt 0 [] with offset := 2, length := 0xFFFFFFFFFFFFFFFF, buflen := 4 } = false := by decide

theorem witness_SourceByteIsInbufOrIdata :
    (let s := loadedAtEnd [0xAB]
     s.src = .bytes ∧ 4095 < s.params.inbufCap.val ∧ Memory.lookup s.inbuf 4095 = some 0xAB#8 ∧
       s.params.inbufCap.val ≤ 4096) ∧
    (let s : State := { loadedAt 0 [] with src := .i32 }
     s.src ≠ .bytes ∧ s.written.idata = true ∧ 7 < 8) := by decide

theorem witness_LittleEndianAssembly : 3 < 32 / 8 ∧ 7 < 64 / 8 := by decide

/-- Four and eight bytes at the very end of INBUF, a tail of three and of none, and a byte that does not exist. -/
theorem witness_DecomposerReads :
    (let s := loadedAtEnd [0x0B, 0x16, 0x21, 0x2C]
     srcByte s 4092 = some 0x0B#8 ∧ srcByte s 4093 = some 0x16#8 ∧ srcByte s 4094 = some 0x21#8 ∧
       srcByte s 4095 = some 0x2C#8 ∧ srcByte s (4093 + 3) = none) ∧
    (counting 8).length = 8 ∧ (∀ i, (h : i < (counting 8).length) → srcByte (loadedAtEnd (counting 8)) (4088 + i) = some (counting 8)[i]) ∧
    (counting 3).length ≤ 3 ∧ (∀ i, (h : i < (counting 3).length) → srcByte (loadedAtEnd (counting 3)) (4093 + i) = some (counting 3)[i]) ∧
    (counting 0).length ≤ 3 ∧ (∀ i, (h : i < (counting 0).length) → srcByte (loadedAtEnd (counting 3)) (4096 + i) = some (counting 0)[i]) := by
  decide

theorem witness_RotationIsToTheLeft : 0 < 31 ∧ 31 < 32 ∧ 0 < 1 ∧ 1 < 64 := by decide

theorem witness_PrimitivesOfX8632 :
    (let h := 0x80000001#32
     let a := 0x80008001#32
     let b := a * 0x85ebca6b#32
     let c := b ^^^ (b >>> 13)
     let d := c * 0xc2b2ae35#32
     a.toNat = h.toNat ^^^ h.toNat / 2 ^ 16 ∧ b = a * 0x85ebca6b#32 ∧
       c.toNat = b.toNat ^^^ b.toNat / 2 ^ 13 ∧ d = c * 0xc2b2ae35#32) ∧
    (0x0F0F0F0F#32 ^^^ 0xF0F0F0F0#32).rotateLeft 13 = 0xFFFFFFFF#32 := by decide

theorem witness_PrimitivesOfX64128 :
    let k := 0x8000000000000001#64
    let a := 0x8000000040000001#64
    let b := a * 0xff51afd7ed558ccd#64
    let c := b ^^^ (b >>> 33)
    let d := c * 0xc4ceb9fe1a85ec53#64
    a.toNat = k.toNat ^^^ k.toNat / 2 ^ 33 ∧ b = a * 0xff51afd7ed558ccd#64 ∧
      c.toNat = b.toNat ^^^ b.toNat / 2 ^ 33 ∧ d = c * 0xc4ceb9fe1a85ec53#64 := by decide

/-- The smallest REM, at the end of INBUF. -/
theorem witness_M32BlockMixesOneBlock :
    let s := loadedAtEnd [0x0B, 0x16, 0x21, 0x2C]
    4 ≤ s.rem.toNat ∧ srcByte s s.pos.toNat = some 0x0B#8 ∧ srcByte s (s.pos.toNat + 1) = some 0x16#8 ∧
      srcByte s (s.pos.toNat + 2) = some 0x21#8 ∧ srcByte s (s.pos.toNat + 3) = some 0x2C#8 := by decide

/-- The longest and the empty tail. -/
theorem witness_M32TailMixesTheTail :
    (let s := loadedAtEnd (counting 3)
     s.rem.toNat ≤ 3 ∧ (counting 3).length = s.rem.toNat ∧
       ∀ i, (h : i < (counting 3).length) → srcByte s (s.pos.toNat + i) = some (counting 3)[i]) ∧
    (let s := loadedAtEnd (counting 0)
     s.rem.toNat ≤ 3 ∧ (counting 0).length = s.rem.toNat ∧
       ∀ i, (h : i < (counting 0).length) → srcByte s (s.pos.toNat + i) = some (counting 0)[i]) := by decide

theorem witness_ZeroTailLeavesTheAccumulators : (busyIn .x86_32 .tail).rem = 0 := by decide

theorem witness_M128BlockMixesOneBlock :
    let s := loadedAtEnd (counting 16)
    16 ≤ s.rem.toNat ∧ (counting 16).length = 16 ∧
      ∀ i, (h : i < (counting 16).length) → srcByte s (s.pos.toNat + i) = some (counting 16)[i] := by decide

/-- The longest tail, and one that does not reach k2. -/
theorem witness_M128TailMixesTheTail :
    (let s := loadedAtEnd (counting 15)
     s.rem.toNat ≤ 15 ∧ (counting 15).length = s.rem.toNat ∧
       ∀ i, (h : i < (counting 15).length) → srcByte s (s.pos.toNat + i) = some (counting 15)[i]) ∧
    (let s := loadedAtEnd (counting 8)
     s.rem.toNat ≤ 15 ∧ (counting 8).length = s.rem.toNat ∧
       ∀ i, (h : i < (counting 8).length) → srcByte s (s.pos.toNat + i) = some (counting 8)[i]) := by decide

/-- The step-by-step values of the 17-byte row of 95 section 2.3. -/
theorem witness_M128FinalAvalanches :
    let s : State := { State.reset with h1q := 0xC40CBC8D5DD827A7, h2q := 0x72927C4BE244042D, len := 17 }
    ∃ a1 a2 : W64, a1 = s.h1q ^^^ s.len ∧ a2 = s.h2q ^^^ s.len ∧
      0x369F38D9401C2BF2#64 = a1 + a2 ∧ 0xA931B5252260302E#64 = a2 + 0x369F38D9401C2BF2#64 ∧
      0xF78EE5B3A0F4DBF8#64 = fmix64 0x369F38D9401C2BF2#64 ∧ 0x64E80E5BFEF2E616#64 = fmix64 0xA931B5252260302E#64 ∧
      0x5C76F40F9FE7C20E#64 = 0xF78EE5B3A0F4DBF8#64 + 0x64E80E5BFEF2E616#64 ∧
      0xC15F026B9EDAA824#64 = 0x64E80E5BFEF2E616#64 + 0x5C76F40F9FE7C20E#64 :=
  ⟨_, _, rfl, rfl, by decide⟩

theorem witness_MixersFaultOutsideTheirPreconditions :
    (let s : State := { loadedAtEnd (counting 3) with rem := 4 }
     3 < s.rem.toNat ∧ srcByte s (s.pos.toNat + 3) = none) ∧
    (let s : State := { loadedAtEnd (counting 15) with rem := 16 }
     15 < s.rem.toNat ∧ srcByte s (s.pos.toNat + 15) = none) ∧
    (let s : State := { loadedAtEnd (counting 2) with rem := 3 }
     2 < s.rem.toNat ∧ s.rem.toNat ≤ 3 ∧ srcByte s (s.pos.toNat + 2) = none) ∧
    (let s : State := { loadedAtEnd (counting 14) with rem := 15 }
     14 < s.rem.toNat ∧ s.rem.toNat ≤ 15 ∧ srcByte s (s.pos.toNat + 14) = none) := by decide

theorem witness_ViewsAfterAPack :
    isNext (exec .pack32 (busyIn .x86_32 .pack)) = true ∧ isNext (exec .pack128 (busyIn .x64_128 .pack)) = true := by decide

theorem witness_BitwidthIsEightTimesDlen : State.reset.dlen = .none := by decide

theorem witness_HexViewIsLowerCaseHighNibbleFirst :
    digestView { State.reset with dlen := .sixteen } (31 / 2) = some 0#8 ∧
    digestView { State.reset with dlen := .four } (0 / 2) = some 0#8 := by decide

theorem witness_ViewsAreConsistent :
    ({ State.reset with dlen := .four } : State).dlen ≠ .none ∧
    ({ State.reset with dlen := .sixteen } : State).dlen ≠ .none := by decide

theorem witness_ResultLastsUntilTheNextCommand :
    let s := idleWith [.write 0x08 64 1]
    s.phase = .idle ∧ isNext (step s) = true ∧ nextEvent s = .write (.reg .seed) 1 := by decide

/-- Every micro-operation answers a next state somewhere: the hypotheses of the transitions and of the frames. -/
theorem witness_SequencerTransitions :
    isNext (exec (.lebdCheck .x86_32) (loadedAt 0 (counting 3))) = true ∧
    isNext (exec .m32Init (busyIn .x86_32 .init)) = true ∧ isNext (exec .m128Init (busyIn .x64_128 .init)) = true ∧
    isNext (exec .m32Block (loadedAt 0 (counting 4))) = true ∧ isNext (exec .m128Block (loadedAt 0 (counting 16))) = true ∧
    isNext (exec .m32Tail (loadedAt 0 (counting 3))) = true ∧ isNext (exec .m128Tail (loadedAt 0 (counting 15))) = true ∧
    isNext (exec .m32Final (busyIn .x86_32 .final)) = true ∧ isNext (exec .m128Final (busyIn .x64_128 .final)) = true ∧
    isNext (exec .pack32 (busyIn .x86_32 .pack)) = true ∧ isNext (exec .pack128 (busyIn .x64_128 .pack)) = true := by decide

theorem witness_NoInstructionWritesOperandsOrInbuf : isNext (exec .m32Block (loadedAt 0 (counting 4))) = true := by decide

theorem witness_FramesByGroup :
    isNext (exec .hash128I64 State.reset) = true ∧
    isNext (exec (.lebdCheck .x64_128) { loadedAt 0 (counting 3) with offset := 1 }) = true ∧
    isNext (exec .m32Tail (loadedAt 0 (counting 0))) = true ∧ isNext (exec .m128Final State.reset) = true ∧
    isNext (exec .pack128 State.reset) = true := by decide

theorem witness_OnlyTheHostChangesOperandsAndInbuf :
    isNext (step (idleWith [.write 0x28 64 4])) = true ∧
    nextEvent (idleWith [.write 0x28 64 4]) = .write (.reg .buflen) 4 ∧
    nextEvent (idleWith [.buf 4095 0xAB]) = .buf 4095 0xAB := by decide

theorem witness_HostWritesAnOperandRegister :
    ∀ off ∈ [0x08, 0x10, 0x18, 0x20, 0x28],
      let s := idleWith [.write off 64 0xFFFFFFFFFFFFFFFF]
      s.phase = .idle ∧ s.inputs = .write (s.params.base + off) 64 0xFFFFFFFFFFFFFFFF :: [] := by decide

theorem witness_HostWritesElsewhereAreIgnored :
    ∀ p ∈ [(0x04, 32), (0x48, 64), (0x3F, 8), (0x7F, 8), (0x54, 64), (0x5F, 8), (0x80, 16)],
      let s := idleWith [.write p.1 p.2 1]
      s.phase = .idle ∧ s.inputs = .write (s.params.base + p.1) p.2 1 :: [] ∧
        ((p.1 ∈ [0x04, 0x40, 0x50] ∧ p.2 = 32) ∨ (p.1 = 0x48 ∧ p.2 = 64) ∨
          (0x30 ≤ p.1 ∧ p.1 ≤ 0x3F ∧ p.2 = 8) ∨ (0x60 ≤ p.1 ∧ p.1 ≤ 0x7F ∧ p.2 = 8) ∨
          (p.2 ∈ [8, 16, 32, 64] ∧ ((0x54 ≤ p.1 ∧ p.1 + p.2 / 8 ≤ 0x60) ∨ 0x80 ≤ p.1))) := by decide

theorem witness_HostWritesAnInbufByte :
    (let s := idleWith [.buf 4095 0xAB]
     s.phase = .idle ∧ s.inputs = .buf 4095 0xAB :: [] ∧ 4095 < s.params.inbufCap.val) ∧
    (let s := idleWith [.buf 4096 0xAB]
     s.phase = .idle ∧ s.inputs = .buf 4096 0xAB :: [] ∧ s.params.inbufCap.val ≤ 4096) := by decide

/-- One read of each clause, at the last byte and the last character. -/
theorem witness_HostReadsReturnTheValue :
    let s : State := { loadedAt 3 (counting 4) with dlen := .sixteen, status := 0x41 }
    s.phase = .idle ∧
    (s.written.idata = true ∧ s.written.offset = true ∧ s.written.length = true ∧ s.written.buflen = true) ∧
    (15 < 16 ∧ digestView s 15 = some 0#8) ∧ view32 s = some 0#32 ∧ view64 s = some 0#64 ∧
    (31 < 32 ∧ hexView s 31 = some 0x30#8) ∧
    ∀ p ∈ [(0x00, 32), (0x04, 32), (0x08, 64), (0x10, 64), (0x18, 64), (0x20, 64), (0x28, 64), (0x3F, 8), (0x40, 32),
        (0x48, 64), (0x50, 32), (0x7F, 8)],
      ({ s with inputs := [.read p.1 p.2] } : State).inputs = .read (s.params.base + p.1) p.2 :: [] := by decide

theorem witness_HostReadsOfUnwrittenOperandsComplete :
    let s := idleWith [.read 0x28 64]
    s.phase = .idle ∧ 0x28 ∈ [0x10, 0x18, 0x20, 0x28] ∧ s.inputs = .read (s.params.base + 0x28) 64 :: [] ∧
      isWritten s .buflen = false := by decide

theorem witness_HostReadsWithoutAValueAreRefused :
    (let s := idleWith [.read 0x40 32]
     s.phase = .idle ∧ s.inputs = .read (s.params.base + 0x40) 32 :: [] ∧ s.dlen = .none) ∧
    (let s : State := { idleWith [.read 0x34 8] with dlen := .four }
     s.phase = .idle ∧ s.inputs = .read (s.params.base + (0x30 + 4)) 8 :: [] ∧ 4 < 16 ∧ s.dlen.toNat ≤ 4) ∧
    (let s : State := { idleWith [.read 0x68 8] with dlen := .four }
     s.phase = .idle ∧ s.inputs = .read (s.params.base + (0x60 + 8)) 8 :: [] ∧ 8 < 32 ∧ 2 * s.dlen.toNat ≤ 8) ∧
    (let s := idleWith [.read 0x5C 32]
     s.phase = .idle ∧ s.inputs = .read (s.params.base + 0x5C) 32 :: [] ∧ 0x54 ≤ 0x5C ∧ 0x5C + 32 / 8 ≤ 0x60) := by decide

/-- A register, a byte of DIGEST and a character of HEX at another width, accesses that start inside a register or straddle two,
a place no rule names, a width no bus has, and both kinds of access. -/
theorem witness_AccessesOfTheWrongWidthAreRefused :
    ∀ p ∈ [(0x08, 32), (0x00, 64), (0x30, 16), (0x3F, 32), (0x60, 64), (0x7F, 16), (0x06, 32), (0x5F, 16), (0x53, 8), (0x44, 32),
        (0x47, 8), (0x54, 24), (0x80, 0)],
      let s := idleWith [.read p.1 p.2]
      let t := idleWith [.write p.1 p.2 1]
      s.phase = .idle ∧ t.phase = .idle ∧
      p ∉ [(0x00, 32), (0x04, 32), (0x08, 64), (0x10, 64), (0x18, 64), (0x20, 64), (0x28, 64), (0x40, 32), (0x48, 64),
        (0x50, 32)] ∧
      ¬ (0x30 ≤ p.1 ∧ p.1 ≤ 0x3F ∧ p.2 = 8) ∧ ¬ (0x60 ≤ p.1 ∧ p.1 ≤ 0x7F ∧ p.2 = 8) ∧
      ¬ (p.2 ∈ [8, 16, 32, 64] ∧ ((0x54 ≤ p.1 ∧ p.1 + p.2 / 8 ≤ 0x60) ∨ 0x80 ≤ p.1)) ∧
      s.inputs = .read (s.params.base + p.1) p.2 :: [] ∧ t.inputs = .write (t.params.base + p.1) p.2 1 :: [] := by decide

theorem witness_AccessesOfTheWrongWidthAreRefused_below_base :
    let s : State := { idleWith [.write 0x0FFF 8 1] with params := { State.reset.params with base := 0x1000 } }
    s.phase = .idle ∧ 0x0FFF < s.params.base ∧ s.inputs = .write 0x0FFF 8 1 :: [] := by decide

theorem witness_ResetEventResets :
    (idleWith [.reset 5]).phase = .idle ∧
    ({ busyIn .x86_32 .body with inputs := [.reset 0] } : State).inputs = .reset 0 :: [] := by decide

/-- A state of the invariant in the middle of a command: the tail of three bytes. -/
def midTail : State := { loadedAt 0 (counting 3) with phase := .tail }

theorem witness_Inv_midTail : Inv midTail :=
  { inbufSorted := by decide
    inbufInside := by decide
    outcomeIdle := fun h => by cases h
    outcomeBusy := by decide
    window := fun _ _ =>
      { remLeLen := by decide
        inSource := by decide
        ofI32 := by decide
        ofI64 := by decide
        ofOffset := by decide
        ofLength := by decide
        ofBuflen := by decide }
    phaseLegal := ⟨by decide, by decide⟩ }

theorem witness_EveryStepKeepsTheInvariant : Inv midTail ∧ isNext (step midTail) = true :=
  ⟨witness_Inv_midTail, by decide⟩

theorem witness_BusyCoreAlwaysSteps : Inv midTail ∧ midTail.phase ≠ .idle := ⟨witness_Inv_midTail, by decide⟩

/-- A machine whose host is about to issue a command and then read STATUS. -/
def issuing (v : Variant) (src : Source) (s : State) : State :=
  { s with src := .i64, inputs := [issue s.params v src, .read 0x04 32] }

theorem aboutToIssue_issuing (v : Variant) (src : Source) (s : State) (h : s.phase = .idle) :
    AboutToIssue (issuing v src s) v src [.read 0x04 32] :=
  { idle := h
    next := rfl
    noReset := fun _ _ e => by cases e }

theorem inputIs_bytes : InputIs (issuing .x86_32 .bytes (loadedAtEnd (counting 17))) .bytes (counting 17) :=
  ⟨by decide, by decide, by decide, ⟨by decide, by decide, by decide, by decide⟩, by decide, by decide⟩

theorem inputIs_bytes_128 : InputIs (issuing .x64_128 .bytes (loadedAtEnd (counting 17))) .bytes (counting 17) :=
  ⟨by decide, by decide, by decide, ⟨by decide, by decide, by decide, by decide⟩, by decide, by decide⟩

theorem inputIs_empty : InputIs (issuing .x64_128 .bytes (loadedAt 0 [])) .bytes [] :=
  ⟨by decide, by decide, by decide, ⟨by decide, by decide, by decide, by decide⟩, by decide, by decide⟩

theorem witness_Hash32ComputesMurmur32 :
    ∃ s src B rest, AboutToIssue s .x86_32 src rest ∧ InputIs s src B ∧ B.length = 17 :=
  ⟨_, .bytes, _, _, aboutToIssue_issuing .x86_32 .bytes (loadedAtEnd (counting 17)) rfl, inputIs_bytes, by decide⟩

theorem witness_Hash32ComputesMurmur32_integer :
    ∃ s B rest, AboutToIssue s .x86_32 .i64 rest ∧ InputIs s .i64 B :=
  ⟨_, _, _, aboutToIssue_issuing .x86_32 .i64 (loadedAt 0 []) rfl, by decide, rfl⟩

theorem witness_Hash128ComputesMurmur128 :
    ∃ s src B rest, AboutToIssue s .x64_128 src rest ∧ InputIs s src B ∧ B = [] :=
  ⟨_, .bytes, _, _, aboutToIssue_issuing .x64_128 .bytes (loadedAt 0 []) rfl, inputIs_empty, rfl⟩

theorem witness_Hash128ComputesMurmur128_integer :
    ∃ s B rest, AboutToIssue s .x64_128 .i32 rest ∧ InputIs s .i32 B :=
  ⟨_, _, _, aboutToIssue_issuing .x64_128 .i32 (loadedAt 0 []) rfl, by decide, rfl⟩

/-- The first and the last step of the count, for a 17-byte input of `x86_32`. -/
theorem witness_StepCountOfACommand :
    ∃ s src B rest, AboutToIssue s .x86_32 src rest ∧ InputIs s src B ∧ 0 < 5 + B.length / blockSize .x86_32 ∧
      8 < 5 + B.length / blockSize .x86_32 :=
  ⟨_, .bytes, _, _, aboutToIssue_issuing .x86_32 .bytes (loadedAtEnd (counting 17)) rfl, inputIs_bytes, by decide, by decide⟩

/-- The same for `x64_128`: one block and a tail of one byte. -/
theorem witness_StepCountOfACommand_128 :
    ∃ s src B rest, AboutToIssue s .x64_128 src rest ∧ InputIs s src B ∧ 5 < 5 + B.length / blockSize .x64_128 :=
  ⟨_, .bytes, _, _, aboutToIssue_issuing .x64_128 .bytes (loadedAtEnd (counting 17)) rfl, inputIs_bytes_128, by decide⟩

theorem witness_BoundsViolationOfACommand :
    ∃ s rest, AboutToIssue s .x64_128 .bytes rest ∧ s.written.offset = true ∧ s.written.length = true ∧
      s.written.buflen = true ∧ ¬ RangeHolds s :=
  ⟨_, _, aboutToIssue_issuing .x64_128 .bytes { loadedAt 0 (counting 4) with offset := 1 } rfl, by decide, by decide, by decide,
    fun h => absurd h.2.2.1 (by decide)⟩

/-- The same three bytes at two places under two 64-bit seeds with the same low half, as `x86_32` sees them; the second
command after an error. -/
theorem witness_ResultDependsOnSeedAndInputOnly :
    ∃ s t rest rest', AboutToIssue s .x86_32 .bytes rest ∧ AboutToIssue t .x86_32 .bytes rest' ∧
      InputIs s .bytes (counting 3) ∧ InputIs t .bytes (counting 3) ∧ s.offset ≠ t.offset ∧ s.seed ≠ t.seed ∧
      t.status = 0x06 ∧ s.seed.setWidth 32 = t.seed.setWidth 32 :=
  ⟨_, _, _, _, aboutToIssue_issuing .x86_32 .bytes (loadedAt 0 (counting 3)) rfl,
    aboutToIssue_issuing .x86_32 .bytes { loadedAt 5 (counting 3) with seed := 0x100000000, status := 0x06 } rfl,
    ⟨by decide, by decide, by decide, ⟨by decide, by decide, by decide, by decide⟩, by decide, by decide⟩,
    ⟨by decide, by decide, by decide, ⟨by decide, by decide, by decide, by decide⟩, by decide, by decide⟩,
    by decide, by decide, by decide, by decide⟩

/-- The other variant's clause, equal seeds. -/
theorem witness_ResultDependsOnSeedAndInputOnly_128 :
    ∃ s rest, AboutToIssue s .x64_128 .bytes rest ∧ InputIs s .bytes [] ∧ s.seed = s.seed :=
  ⟨_, _, aboutToIssue_issuing .x64_128 .bytes (loadedAt 0 []) rfl, inputIs_empty, rfl⟩

theorem witness_PlatformWidthView :
    ∀ w : NativeWidth, w = .w32 ∨ w = .w64 →
      let p : Config.Params := { State.reset.params with nativeW := w }
      let s : State := { State.reset with
        params := p, dlen := .four, inputs := assemble p (pseudoLines p .rdViewN) ++ [] }
      s.phase = .idle ∧ view32 s = some 0#32 ∧ view64 s = some 0#64 ∧
        s.inputs = assemble s.params (pseudoLines s.params .rdViewN) ++ [] := by
  intro w _
  cases w <;> decide

/-- A machine whose host is about to hash a text and then read STATUS. -/
def hashing (v : Variant) (cap : Fin (2 ^ 63)) (text : List Byte) : State :=
  let p : Config.Params := { State.reset.params with inbufCap := cap }
  { State.reset with params := p, inputs := assemble p (pseudoLines p (.hashText v text)) ++ [.read 0x04 32] }

theorem witness_TextHashing_x86_32 :
    let s := hashing .x86_32 4096 [0x68, 0x69]
    s.phase = .idle ∧ [(0x68 : Byte), 0x69].length ≤ s.params.inbufCap.val ∧
      s.inputs = assemble s.params (pseudoLines s.params (.hashText .x86_32 [0x68, 0x69])) ++ [.read 0x04 32] := by decide

/-- A text that fills INBUF to the last byte, INBUF_CAP being 17. -/
theorem witness_TextHashing_x64_128_full :
    let s := hashing .x64_128 17 (counting 17)
    s.phase = .idle ∧ (counting 17).length = s.params.inbufCap.val ∧
      s.inputs = assemble s.params (pseudoLines s.params (.hashText .x64_128 (counting 17))) ++ [.read 0x04 32] := by decide

/-- The empty text in an INBUF of no byte. -/
theorem witness_TextHashing_empty :
    let s := hashing .x64_128 0 []
    s.phase = .idle ∧ ([] : List Byte).length = s.params.inbufCap.val ∧
      s.inputs = assemble s.params (pseudoLines s.params (.hashText .x64_128 [])) ++ [.read 0x04 32] := by decide

/-- No reset stands next behind the command. -/
theorem witness_TextHashing_noReset : ∀ n r, [HostAction.read 0x04 32] ≠ .reset n :: r := by simp

end Sys2Proof.Tests
end

section
/-! SUPPORT. R13 and R11 in arithmetic: the bytes of a word and their sum, and the rotation as the rule writes it. -/
namespace Sys2Proof.Machine

/-- R13's formula, which `le` computes from the least significant byte on. -/
theorem le_eq_sum (bs : List Byte) : le bs = ∑ i : Fin bs.length, bs[i].toNat * 2 ^ (8 * i.val) := by
  induction bs with
  | nil => rfl
  | cons b bs ih =>
    have tail : 256 * le bs = ∑ i : Fin bs.length, bs[i].toNat * 2 ^ (8 * (i.val + 1)) := by
      rw [ih, Finset.mul_sum]
      refine Finset.sum_congr rfl fun i _ => ?_
      rw [Nat.mul_add, Nat.pow_add]
      ring
    simp only [le_cons, tail, List.length_cons, Fin.sum_univ_succ]
    simp

/-- Bytes appended stand above the bytes before them. -/
theorem le_append (as bs : List Byte) : le (as ++ bs) = le as + 2 ^ (8 * as.length) * le bs := by
  induction as with
  | nil => simp
  | cons a as ih =>
    rw [List.cons_append, le_cons, le_cons, ih, List.length_cons, Nat.mul_add 8, Nat.pow_add]
    ring

theorem byteAt_toNat {w : Nat} (v : BitVec w) (i : Nat) :
    (byteAt v i).toNat = v.toNat / 2 ^ (8 * i) % 2 ^ 8 := by
  simp [byteAt, Nat.shiftRight_eq_div_pow]

@[simp] theorem leBytes_zero {w : Nat} (v : BitVec w) : leBytes v 0 = [] := rfl

theorem leBytes_succ {w : Nat} (v : BitVec w) (n : Nat) : leBytes v (n + 1) = leBytes v n ++ [byteAt v n] := by
  simp [leBytes, List.range_succ]

@[simp] theorem leBytes_length {w : Nat} (v : BitVec w) (n : Nat) : (leBytes v n).length = n := by
  simp [leBytes]

/-- The low n bytes of a word sum to the word modulo 2^(8*n), whatever its width. -/
theorem le_leBytes {w : Nat} (v : BitVec w) (n : Nat) : le (leBytes v n) = v.toNat % 2 ^ (8 * n) := by
  induction n with
  | zero => simp [Nat.mod_one]
  | succ n ih =>
    calc le (leBytes v (n + 1))
        = le (leBytes v n) + 2 ^ (8 * n) * (byteAt v n).toNat := by simp [leBytes_succ, le_append]
      _ = v.toNat % 2 ^ (8 * n) + 2 ^ (8 * n) * (v.toNat / 2 ^ (8 * n) % 2 ^ 8) := by rw [ih, byteAt_toNat]
      _ = v.toNat % 2 ^ (8 * (n + 1)) := by rw [← Nat.mod_mul, Nat.mul_add, Nat.pow_add]

/-- R11's formula: the bits that stay fill multiples of 2^r and the ones that re-enter are below 2^r, so the sum
does not wrap. -/
theorem rotl_toNat {n : Nat} (a : BitVec n) (r : Nat) (h : r ≤ n) :
    (rotl a r).toNat = (a.toNat * 2 ^ r) % 2 ^ n + a.toNat / 2 ^ (n - r) := by
  have pow_eq : 2 ^ n = 2 ^ (n - r) * 2 ^ r := by rw [← Nat.pow_add, Nat.sub_add_cancel h]
  have stay : a.toNat * 2 ^ r % 2 ^ n = a.toNat % 2 ^ (n - r) * 2 ^ r := by rw [pow_eq, Nat.mul_mod_mul_right]
  have reenter : a.toNat / 2 ^ (n - r) < 2 ^ r := Nat.div_lt_of_lt_mul (pow_eq ▸ a.isLt)
  have noWrap : a.toNat * 2 ^ r % 2 ^ n + a.toNat / 2 ^ (n - r) < 2 ^ n :=
    calc a.toNat * 2 ^ r % 2 ^ n + a.toNat / 2 ^ (n - r)
        < (a.toNat % 2 ^ (n - r) + 1) * 2 ^ r := by rw [stay, Nat.succ_mul]; omega
      _ ≤ 2 ^ (n - r) * 2 ^ r := Nat.mul_le_mul_right _ (Nat.mod_lt _ (Nat.two_pow_pos _))
      _ = 2 ^ n := pow_eq.symm
  rw [rotl, BitVec.toNat_add, BitVec.toNat_shiftLeft, BitVec.toNat_ushiftRight, Nat.shiftLeft_eq,
    Nat.shiftRight_eq_div_pow, Nat.mod_eq_of_lt noWrap]

/-- Settles O14: the n bytes of a word of 8*n bits sum to the word itself, its value being below 2^(8*n). -/
theorem littleEndianAssembly : Obligations.LittleEndianAssembly :=
  ⟨le_eq_sum, fun _ v i _ => byteAt_toNat v i, fun n v => by rw [le_leBytes, Nat.mod_eq_of_lt v.isLt]⟩

/-- Settles O16: the sum of the two halves does not wrap, and they have no bit in common. -/
theorem rotationIsToTheLeft : Obligations.RotationIsToTheLeft :=
  fun _ a r _ h => ⟨rotl_toNat a r (Nat.le_of_lt h), rotl_eq_rotateLeft a r h⟩

end Sys2Proof.Machine
end

section
/-! SUPPORT. R66: the three fields of a command word as numbers, and the command each legal choice of fields is. -/
namespace Sys2Proof.Machine

/-- The command instruction of a variant and an input form (30_encoding.md R67). -/
def commandOf : Variant → Source → Instr
  | .x86_32, .bytes => .hash32Bytes
  | .x86_32, .i32 => .hash32I32
  | .x86_32, .i64 => .hash32I64
  | .x64_128, .bytes => .hash128Bytes
  | .x64_128, .i32 => .hash128I32
  | .x64_128, .i64 => .hash128I64

theorem exec_commandOf (v : Variant) (src : Source) (s : State) : exec (commandOf v src) s = accept v src s := by
  cases v <;> cases src <;> rfl

theorem accept_of_idle (v : Variant) (src : Source) (s : State) (h : s.phase = .idle) :
    accept v src s = .next { discardOutcome s with var := v, src := src, phase := .check } :=
  if_pos h

theorem zeroField_toNat (w : W32) : (zeroField w).toNat = w.toNat / 2 ^ 8 := by
  have := w.isLt
  simp only [zeroField, BitVec.extractLsb'_toNat, Nat.shiftRight_eq_div_pow]
  omega

theorem varsel_toNat (w : W32) : (varsel w).toNat = w.toNat / 2 ^ 4 % 2 ^ 4 := by
  simp only [varsel, BitVec.extractLsb'_toNat, Nat.shiftRight_eq_div_pow]

theorem srcsel_toNat (w : W32) : (srcsel w).toNat = w.toNat % 2 ^ 4 := by
  simp only [srcsel, BitVec.extractLsb'_toNat, Nat.shiftRight_zero]

theorem zeroField_eq_zero_iff (w : W32) : zeroField w = 0 ↔ w.toNat / 2 ^ 8 = 0 := by
  rw [← zeroField_toNat, BitVec.toNat_eq]
  rfl

/-- VARSEL selects some variant exactly when it is 1 or 2. -/
theorem exists_varsel_iff (w : W32) :
    (∃ v, varsel w = varselOf v) ↔ w.toNat / 2 ^ 4 % 2 ^ 4 = 1 ∨ w.toNat / 2 ^ 4 % 2 ^ 4 = 2 := by
  rw [← varsel_toNat]
  constructor
  · rintro ⟨v, hv⟩
    cases v <;> simp [hv, varselOf]
  · rintro (h | h)
    · exact ⟨.x86_32, BitVec.eq_of_toNat_eq h⟩
    · exact ⟨.x64_128, BitVec.eq_of_toNat_eq h⟩

/-- SRCSEL selects some input form exactly when it is 0, 1 or 2. -/
theorem exists_srcsel_iff (w : W32) :
    (∃ src, srcsel w = srcselOf src) ↔ w.toNat % 2 ^ 4 = 0 ∨ w.toNat % 2 ^ 4 = 1 ∨ w.toNat % 2 ^ 4 = 2 := by
  rw [← srcsel_toNat]
  constructor
  · rintro ⟨src, hs⟩
    cases src <;> simp [hs, srcselOf]
  · rintro (h | h | h)
    · exact ⟨.bytes, BitVec.eq_of_toNat_eq h⟩
    · exact ⟨.i32, BitVec.eq_of_toNat_eq h⟩
    · exact ⟨.i64, BitVec.eq_of_toNat_eq h⟩

/-- A word decodes to a command exactly when ZERO is 0 and the other fields select that command's variant and form. -/
theorem decode_cmd_eq_instr_iff (w : W32) (i : Instr) :
    decode (.cmd w) = .instr i ↔
      ∃ v src, i = commandOf v src ∧ zeroField w = 0 ∧ varsel w = varselOf v ∧ srcsel w = srcselOf src := by
  constructor
  · intro h
    simp only [decode, decodeCmd] at h
    split_ifs at h with hz hv hs hs hs hv hs hs hs <;> cases h
    · exact ⟨.x86_32, .bytes, rfl, hz, hv, hs⟩
    · exact ⟨.x86_32, .i32, rfl, hz, hv, hs⟩
    · exact ⟨.x86_32, .i64, rfl, hz, hv, hs⟩
    · exact ⟨.x64_128, .bytes, rfl, hz, hv, hs⟩
    · exact ⟨.x64_128, .i32, rfl, hz, hv, hs⟩
    · exact ⟨.x64_128, .i64, rfl, hz, hv, hs⟩
  · rintro ⟨v, src, rfl, hz, hv, hs⟩
    simp only [decode, decodeCmd, hz, hv, hs]
    cases v <;> cases src <;> rfl

/-- R66: a word is a legal command exactly when each of its three fields is legal on its own. -/
theorem exists_decode_cmd_iff (w : W32) :
    (∃ i, decode (.cmd w) = .instr i) ↔
      zeroField w = 0 ∧ (∃ v, varsel w = varselOf v) ∧ ∃ src, srcsel w = srcselOf src := by
  simp only [decode_cmd_eq_instr_iff]
  constructor
  · rintro ⟨_, v, src, -, hz, hv, hs⟩
    exact ⟨hz, ⟨v, hv⟩, src, hs⟩
  · rintro ⟨hz, ⟨v, hv⟩, src, hs⟩
    exact ⟨_, v, src, rfl, hz, hv, hs⟩

/-- R66: VAR is VARSEL - 1. -/
theorem varBit_toNat (v : Variant) : v.bit.toNat = (varselOf v).toNat - 1 := by cases v <;> rfl

/-- R66: SRC is SRCSEL. -/
theorem srcCode_toNat (src : Source) : (srcCode src).toNat = (srcselOf src).toNat := by cases src <;> rfl

/-- Settles O2: a legal word is the command of the variant and form its fields select, and an idle core accepts that
command by storing the two. -/
theorem commandWordIsLegalByItsFields : Obligations.CommandWordIsLegalByItsFields := by
  intro w
  refine ⟨?legality, ?acceptance⟩
  case legality =>
    rw [exists_decode_cmd_iff, zeroField_eq_zero_iff, exists_varsel_iff, exists_srcsel_iff]
  case acceptance =>
    intro i s hdecode hidle
    obtain ⟨v, src, rfl, -, hv, hs⟩ := (decode_cmd_eq_instr_iff w i).mp hdecode
    refine ⟨_, (exec_commandOf v src s).trans (accept_of_idle v src s hidle), ?_, ?_⟩
    · rw [varBit_toNat, ← hv, varsel_toNat]
    · rw [srcCode_toNat, ← hs, srcsel_toNat]

end Sys2Proof.Machine
end

section
/-! SUPPORT. R86: RangeOK on integers, where a range that ends past INBUF_CAP fails whatever BUFLEN holds. -/
namespace Sys2Proof.Machine

/-- R86's third and fourth conditions bound the end of the range by the capacity, not only by BUFLEN. -/
theorem rangeOk_eq_false_of_cap_lt (cap : Nat) (o l : Int) (b : Nat) (h : (cap : Int) < o + l) :
    rangeOk cap o l b = false := by
  refine Bool.eq_false_iff.mpr fun hok => ?_
  obtain ⟨-, -, hend, hcap⟩ := (rangeOk_iff cap o l b).mp hok
  omega

/-- Settles O10: on integers 2^63-1 twice is 2^64-2, past every capacity below 2^63, where a sum of 64 bits read as
signed would be -2. -/
theorem rangeOkIsTheFourConditions : Obligations.RangeOkIsTheFourConditions := by
  refine ⟨rangeOk_iff, fun cap b => rangeOk_eq_false_of_cap_lt _ _ _ _ ?pastCap⟩
  case pastCap =>
    have hcap := cap.isLt
    omega

end Sys2Proof.Machine
end

section
/-! SUPPORT. R101 to R103: the primitives of `x86_32` as the rules write them. -/
namespace Sys2Proof.Machine

theorem mixK1_32_eq (k : W32) : mixK1_32 k = (k * 0xcc9e2d51#32).rotateLeft 15 * 0x1b873593#32 := by
  rw [mixK1_32, rotl_eq_rotateLeft _ _ (by decide)]

theorem mixH1_32_eq (h k : W32) : mixH1_32 h k = (h ^^^ k).rotateLeft 13 * 5#32 + 0xe6546b64#32 := by
  rw [mixH1_32, rotl_eq_rotateLeft _ _ (by decide)]

theorem mixH1_32_comm (h k : W32) : mixH1_32 h k = mixH1_32 k h := by
  rw [mixH1_32_eq, BitVec.xor_comm, ← mixH1_32_eq]

/-- R102: equal operands cancel, and the addend alone is left. -/
theorem mixH1_32_self (h : W32) : mixH1_32 h h = 0xE6546B64#32 := by
  rw [mixH1_32_eq, BitVec.xor_self]
  decide

/-- R102: on a rotated word of ones both the multiply and the add wrap. -/
theorem mixH1_32_of_rotateLeft_eq_ones (h k : W32) (hones : (h ^^^ k).rotateLeft 13 = 0xFFFFFFFF#32) :
    mixH1_32 h k = 0xE6546B5F#32 := by
  rw [mixH1_32_eq, hones]
  decide

/-- A step of an avalanche in arithmetic, at every width: the shift is logical, hence a division. -/
theorem xor_ushiftRight_toNat {w : Nat} (v : BitVec w) (r : Nat) :
    (v ^^^ (v >>> r)).toNat = v.toNat ^^^ v.toNat / 2 ^ r := by
  rw [BitVec.toNat_xor, BitVec.toNat_ushiftRight, Nat.shiftRight_eq_div_pow]

theorem eq_xor_ushiftRight_of_toNat {w : Nat} {u v : BitVec w} {r : Nat}
    (h : u.toNat = v.toNat ^^^ v.toNat / 2 ^ r) : u = v ^^^ (v >>> r) :=
  BitVec.eq_of_toNat_eq (h.trans (xor_ushiftRight_toNat v r).symm)

/-- R103: words that meet the rule's equations one after the other are the steps `fmix32` computes. -/
theorem fmix32_toNat (h a b c d : W32) (ha : a.toNat = h.toNat ^^^ h.toNat / 2 ^ 16) (hb : b = a * 0x85ebca6b#32)
    (hc : c.toNat = b.toNat ^^^ b.toNat / 2 ^ 13) (hd : d = c * 0xc2b2ae35#32) :
    (fmix32 h).toNat = d.toNat ^^^ d.toNat / 2 ^ 16 := by
  have hfmix : fmix32 h = d ^^^ (d >>> 16) := by
    rw [hd, eq_xor_ushiftRight_of_toNat hc, hb, eq_xor_ushiftRight_of_toNat ha, fmix32]
  rw [hfmix, xor_ushiftRight_toNat]

/-- Settles O17: the formulas hold of all words, and `decide` evaluates the primitives at the words the rules print. -/
theorem primitivesOfX8632 : Obligations.PrimitivesOfX8632 := by
  refine ⟨mixK1_32_eq, mixH1_32_eq, mixH1_32_comm, mixH1_32_self, fmix32_toNat,
    ?_, ?_, ?_, ?_, ?_, ?_, ?_, ?_, ?_, mixH1_32_of_rotateLeft_eq_ones, ?_⟩ <;> decide

end Sys2Proof.Machine
end

section
/-! SUPPORT. R104, R107: the micro-operations of `x86_32` that read no source byte; R109, R131: the empty tail. -/
namespace Sys2Proof.Machine

/-- Settles O19: the word is SEED cut to 32 bits, and PHASE is chosen on the REM the state holds already. -/
theorem m32InitLoadsTheLowHalfOfSeed : Obligations.M32InitLoadsTheLowHalfOfSeed := by
  refine ⟨by decide, fun s => ⟨s.seed.setWidth 32, BitVec.toNat_setWidth 32 s.seed, ?_⟩⟩
  rw [← bodyOrTail_x86_32]
  rfl

/-- Settles O22: the word that enters is LEN cut to 32 bits. -/
theorem m32FinalAvalanches : Obligations.M32FinalAvalanches :=
  ⟨by decide, fun s => ⟨s.len.setWidth 32, BitVec.toNat_setWidth 32 s.len, rfl⟩⟩

@[simp] theorem mixK1_32_zero : mixK1_32 0#32 = 0#32 := by decide

@[simp] theorem mixK1_64_zero : mixK1_64 0#64 = 0#64 := by decide

@[simp] theorem mixK2_64_zero : mixK2_64 0#64 = 0#64 := by decide

/-- Using up the bytes that remain moves nothing but PHASE when none remain. -/
theorem use_up_of_rem_zero (s : State) (hrem : s.rem = 0) :
    ({ s with pos := s.pos + s.rem, rem := 0, phase := .final } : State) = { s with phase := .final } := by
  have hpos : s.pos + s.rem = s.pos := by simp [hrem]
  rw [hpos, ← hrem]

/-- R109: no byte is read, so the tail word is 0, and mixing 0 in leaves H1. -/
theorem execM32Tail_of_rem_zero (s : State) (hrem : s.rem = 0) : execM32Tail s = .next { s with phase := .final } := by
  obtain ⟨h, hh, hnext⟩ := execM32Tail_next s 0 (by simp [hrem]) (by simp [lebdRdTail32, hrem])
  have hkeep : h = s.h1 := by simpa using hh
  rw [hnext, hkeep, use_up_of_rem_zero s hrem]

/-- R131: both words are 0, and mixing 0 in leaves each lane. -/
theorem execM128Tail_of_rem_zero (s : State) (hrem : s.rem = 0) :
    execM128Tail s = .next { s with phase := .final } := by
  obtain ⟨n1, n2, h1, h2, hnext⟩ := execM128Tail_next s 0 0 (by simp [hrem])
    (by simp [lebdRdTail64, hrem]) (by simp [lebdRdTail64, hrem])
  have hkeep1 : n1 = s.h1q := by simpa using h1
  have hkeep2 : n2 = s.h2q := by simpa using h2
  rw [hnext, hkeep1, hkeep2, use_up_of_rem_zero s hrem]

/-- Settles O27: with no byte left, neither variant's tail does anything but move PHASE on. -/
theorem zeroTailLeavesTheAccumulators : Obligations.ZeroTailLeavesTheAccumulators :=
  fun s hrem => ⟨execM32Tail_of_rem_zero s hrem, execM128Tail_of_rem_zero s hrem⟩

end Sys2Proof.Machine
end

section
/-! SUPPORT. R121 to R123: the primitives of `x64_128` as the rules write them. -/
namespace Sys2Proof.Machine

theorem mixK1_64_eq (k : W64) :
    mixK1_64 k = (k * 0x87c37b91114253d5#64).rotateLeft 31 * 0x4cf5ad432745937f#64 := by
  rw [mixK1_64, rotl_eq_rotateLeft _ _ (by decide)]

theorem mixK2_64_eq (k : W64) :
    mixK2_64 k = (k * 0x4cf5ad432745937f#64).rotateLeft 33 * 0x87c37b91114253d5#64 := by
  rw [mixK2_64, rotl_eq_rotateLeft _ _ (by decide)]

/-- R123: words that meet the rule's equations one after the other are the steps `fmix64` computes. -/
theorem fmix64_toNat (k a b c d : W64) (ha : a.toNat = k.toNat ^^^ k.toNat / 2 ^ 33) (hb : b = a * 0xff51afd7ed558ccd#64)
    (hc : c.toNat = b.toNat ^^^ b.toNat / 2 ^ 33) (hd : d = c * 0xc4ceb9fe1a85ec53#64) :
    (fmix64 k).toNat = d.toNat ^^^ d.toNat / 2 ^ 33 := by
  have hfmix : fmix64 k = d ^^^ (d >>> 33) := by
    rw [hd, eq_xor_ushiftRight_of_toNat hc, hb, eq_xor_ushiftRight_of_toNat ha, fmix64]
  rw [hfmix, xor_ushiftRight_toNat]

/-- Settles O18: the formulas hold of all words, and `decide` evaluates the primitives at the words the rules print. -/
theorem primitivesOfX64128 : Obligations.PrimitivesOfX64128 := by
  refine ⟨mixK1_64_eq, mixK2_64_eq, fmix64_toNat, mixK1_64_zero, ?_, ?_, ?_, ?_, mixK2_64_zero,
    ?_, ?_, ?_, ?_, ?_⟩ <;> decide

end Sys2Proof.Machine
end

section
/-! SUPPORT. R124, R127: the micro-operations of `x64_128` that read no source byte. -/
namespace Sys2Proof.Machine

/-- Settles O23: no width changes on the way from SEED, and PHASE is chosen on the REM the state holds already. -/
theorem m128InitLoadsSeedInBothLanes : Obligations.M128InitLoadsSeedInBothLanes := by
  refine ⟨by decide, fun s => ?_⟩
  rw [← bodyOrTail_x64_128]
  rfl

/-- R127: words that meet the rule's equations one after the other end in the lanes `finalLanes` computes. -/
theorem finalLanes_of_steps (h1 h2 len a1 a2 b1 b2 c1 c2 d1 d2 : W64) (ha1 : a1 = h1 ^^^ len) (ha2 : a2 = h2 ^^^ len)
    (hb1 : b1 = a1 + a2) (hb2 : b2 = a2 + b1) (hc1 : c1 = fmix64 b1) (hc2 : c2 = fmix64 b2)
    (hd1 : d1 = c1 + c2) (hd2 : d2 = c2 + d1) : finalLanes h1 h2 len = (d1, d2) := by
  rw [hd2, hd1, hc2, hc1, hb2, hb1, ha2, ha1, finalLanes]

theorem exec_m128Final_of_finalLanes (s : State) (d1 d2 : W64) (hlanes : finalLanes s.h1q s.h2q s.len = (d1, d2)) :
    exec .m128Final s = .next { s with h1q := d1, h2q := d2, phase := .pack } := by
  rw [exec, execM128Final, hlanes]

/-- Settles O26: the rule's equations fix both lanes, each second sum taking the lane 1 the first has just produced. -/
theorem m128FinalAvalanches : Obligations.M128FinalAvalanches := by
  refine ⟨by decide, fun s a1 a2 b1 b2 c1 c2 d1 d2 ha1 ha2 hb1 hb2 hc1 hc2 hd1 hd2 => ?_⟩
  exact exec_m128Final_of_finalLanes s d1 d2
    (finalLanes_of_steps _ _ _ a1 a2 b1 b2 c1 c2 d1 d2 ha1 ha2 hb1 hb2 hc1 hc2 hd1 hd2)

end Sys2Proof.Machine
end

section
/-! SUPPORT. R141, R142: what a packer's write to DIGEST leaves at each index, and which bytes of DIGEST a reader meets. -/
namespace Sys2Proof.Machine

theorem memWrite_getElem_of_inside {w : Nat} (d : Vector Byte 16) (addr n : Nat) (v : BitVec w) (i : Nat) (h : i < 16)
    (hi : addr ≤ i ∧ i < addr + n) : (memWrite d addr n v)[i].toNat = v.toNat / 2 ^ (8 * (i - addr)) % 2 ^ 8 := by
  rw [memWrite_getElem, if_pos hi, byteAt_toNat]

theorem memWrite_getElem_of_outside {w : Nat} (d : Vector Byte 16) (addr n : Nat) (v : BitVec w) (i : Nat) (h : i < 16)
    (hi : ¬ (addr ≤ i ∧ i < addr + n)) : (memWrite d addr n v)[i] = d[i] := by
  rw [memWrite_getElem, if_neg hi]

theorem digestView_of_lt (s : State) (i : Nat) (h : i < 16) (hi : i < s.dlen.toNat) :
    digestView s i = some s.digest[i] := by
  rw [digestView, if_pos hi, Vector.getElem?_eq_getElem h]

theorem digestView_of_dlen_le (s : State) (i : Nat) (hi : s.dlen.toNat ≤ i) : digestView s i = none :=
  if_neg (Nat.not_lt.2 hi)

/-- Settles O29: the write covers DIGEST[0..3] alone, and DLEN = 4 hides the bytes it leaves. -/
theorem pack32StoresH1 : Obligations.Pack32StoresH1 := by
  refine ⟨by decide, fun s => ⟨memWrite s.digest 0 4 s.h1, rfl, ?stored, ?kept, ?hidden⟩⟩
  case stored =>
    intro i h hi
    exact memWrite_getElem_of_inside _ 0 4 s.h1 i h (by omega)
  case kept =>
    intro i h hi
    exact memWrite_getElem_of_outside _ 0 4 s.h1 i h (by omega)
  case hidden =>
    intro t ht i hi
    cases ht
    exact digestView_of_dlen_le _ i hi

/-- Settles O30: the second write begins where the first ends, so the low eight bytes stay those of H1Q. -/
theorem pack128StoresBothLanes : Obligations.Pack128StoresBothLanes := by
  refine ⟨by decide, fun s => ⟨memWrite (memWrite s.digest 0 8 s.h1q) 8 8 s.h2q, rfl, ?lane1, ?lane2⟩⟩
  case lane1 =>
    intro i h hi
    rw [memWrite_getElem_of_outside _ 8 8 s.h2q i h (by omega)]
    exact memWrite_getElem_of_inside _ 0 8 s.h1q i h (by omega)
  case lane2 =>
    intro i h hi
    exact memWrite_getElem_of_inside _ 8 8 s.h2q i h (by omega)

end Sys2Proof.Machine
end

section
/-! SUPPORT. R144 to R151: each view as arithmetic on the bytes of DIGEST. -/
namespace Sys2Proof.Machine

/-- The first k bytes of a sequence make its number modulo 2^(8*k). -/
theorem le_take (bs : List Byte) (k : Nat) : le (bs.take k) = le bs % 2 ^ (8 * k) := by
  induction k generalizing bs with
  | zero => simp [Nat.mod_one]
  | succ k ih =>
    cases bs with
    | nil => simp
    | cons b bs =>
      have hb : b.toNat < 256 := b.isLt
      have hpow : 2 ^ (8 * (k + 1)) = 256 * 2 ^ (8 * k) := by rw [Nat.mul_add, Nat.pow_add, Nat.mul_comm]
      have hlow : (b.toNat + 256 * le bs) % 256 = b.toNat := by omega
      have hhigh : (b.toNat + 256 * le bs) / 256 = le bs := by omega
      rw [List.take_succ_cons, le_cons, le_cons, ih, hpow, Nat.mod_mul, hlow, hhigh]

theorem le_take_lt (bs : List Byte) (k : Nat) : le (bs.take k) < 2 ^ (8 * k) := by
  rw [le_take]
  exact Nat.mod_lt _ (Nat.two_pow_pos _)

theorem four_le_dlen (s : State) (h : s.dlen ≠ .none) : 4 ≤ s.dlen.toNat := by
  cases hd : s.dlen with
  | none => exact absurd hd h
  | four => decide
  | sixteen => decide

theorem dlen_le_sixteen (s : State) : s.dlen.toNat ≤ 16 := by cases s.dlen <;> decide

theorem bitwidthView_toNat (s : State) : (bitwidthView s).toNat = 8 * s.dlen.toNat := by
  have := dlen_le_sixteen s
  rw [bitwidthView, BitVec.toNat_ofNat]
  omega

/-- R145: every result has four bytes at least, and VIEW32 is those. -/
theorem view32_of_result (s : State) (h : s.dlen ≠ .none) :
    view32 s = some (BitVec.ofNat 32 (le (s.digest.toList.take 4))) := by
  rw [view32, if_neg h, digestPrefix, Nat.min_eq_right (four_le_dlen s h)]

/-- R146: VIEW64 is the result's bytes, cut to eight. -/
theorem view64_of_result (s : State) (h : s.dlen ≠ .none) :
    view64 s = some (BitVec.ofNat 64 (le (s.digest.toList.take (min s.dlen.toNat 8)))) :=
  if_neg h

/-- R151: the low half of the word of four to eight bytes is the word of the first four. -/
theorem ofNat_le_take_setWidth (bs : List Byte) (n : Nat) (h : 4 ≤ n) :
    (BitVec.ofNat 64 (le (bs.take n))).setWidth 32 = BitVec.ofNat 32 (le (bs.take 4)) := by
  have hfour : le (bs.take 4) = le (bs.take n) % 2 ^ 32 := by
    rw [← Nat.min_eq_left h, ← List.take_take, le_take]
  rw [BitVec.setWidth_ofNat_of_le (by decide), hfour]
  exact BitVec.eq_of_toNat_eq (by simp)

theorem nibble_toNat (b : Byte) (j : Nat) :
    (if j % 2 = 0 then b.extractLsb' 4 4 else b.extractLsb' 0 4).toNat =
      if j % 2 = 0 then b.toNat / 16 else b.toNat % 16 := by
  have hb := b.isLt
  split
  · rw [BitVec.extractLsb'_toNat, Nat.shiftRight_eq_div_pow]
    omega
  · rw [BitVec.extractLsb'_toNat, Nat.shiftRight_zero]

theorem hexChar_toNat (nib : BitVec 4) :
    (hexChar nib).toNat = if nib.toNat ≤ 9 then 0x30 + nib.toNat else 0x61 + (nib.toNat - 10) := by
  have hn := nib.isLt
  unfold hexChar
  split <;> bv_omega

/-- R148: a character exists where its byte does, and is the code of the byte's nibble. -/
theorem hexView_of_digestView (s : State) (j : Nat) (b : Byte) (h : digestView s (j / 2) = some b) :
    ∃ c, hexView s j = some c ∧
      c.toNat =
        let nib := if j % 2 = 0 then b.toNat / 16 else b.toNat % 16
        if nib ≤ 9 then 0x30 + nib else 0x61 + (nib - 10) := by
  refine ⟨hexChar (if j % 2 = 0 then b.extractLsb' 4 4 else b.extractLsb' 0 4), by rw [hexView, h], ?_⟩
  rw [hexChar_toNat, nibble_toNat]

/-- Settles O34: every result has at least four bytes, so both word views cut the same DIGEST, and each HEX character
stands on a byte that exists. -/
theorem viewsAreConsistent : Obligations.ViewsAreConsistent := by
  intro s hres
  refine ⟨_, _, view32_of_result s hres, view64_of_result s hres, ?value32, ?value64, ?half, bitwidthView_toNat s,
    digestView_of_lt s, ?hex⟩
  case value32 => rw [BitVec.toNat_ofNat, Nat.mod_eq_of_lt (le_take_lt _ 4)]
  case value64 =>
    have hpow : 2 ^ (8 * min s.dlen.toNat 8) ≤ 2 ^ 64 := Nat.pow_le_pow_right (by decide) (by omega)
    rw [BitVec.toNat_ofNat, Nat.mod_eq_of_lt ((le_take_lt _ _).trans_le hpow)]
  case half =>
    have := four_le_dlen s hres
    exact (ofNat_le_take_setWidth _ _ (by omega)).symm
  case hex =>
    intro j hj
    have := dlen_le_sixteen s
    have hb := digestView_of_lt s (j / 2) (by omega) (by omega)
    obtain ⟨c, hc, hcode⟩ := hexView_of_digestView s j _ hb
    exact ⟨_, c, hb, hc, hcode⟩

end Sys2Proof.Machine
end

section
/-! SUPPORT. R150: what the events other than a command and a reset leave alone. -/
namespace Sys2Proof.Machine

theorem KeepsResult.refl (s : State) : KeepsResult s s := ⟨rfl, rfl, rfl⟩

theorem writeOperand_keepsResult (r : OperandReg) (v : W64) (s : State) : KeepsResult s (writeOperand r v s) :=
  ⟨writeOperand_status r v s, writeOperand_dlen r v s, writeOperand_digest r v s⟩

/-- R171: a host write to anything but CMD writes one operand register or nothing. -/
theorem hostWrite_cases (t : Target) (v : W64) (s : State) :
    hostWrite t v s = s ∨ ∃ r, hostWrite t v s = writeOperand r v s := by
  cases t with
  | reg r =>
    cases r with
    | seed => exact .inr ⟨.seed, rfl⟩
    | idata => exact .inr ⟨.idata, rfl⟩
    | offset => exact .inr ⟨.offset, rfl⟩
    | length => exact .inr ⟨.length, rfl⟩
    | buflen => exact .inr ⟨.buflen, rfl⟩
    | cmd | status | view32 | view64 | bitwidth => exact .inl rfl
  | digest i => exact .inl rfl
  | hex j => exact .inl rfl
  | reserved => exact .inl rfl

theorem hostRead_eq_next (addr width : Nat) (t : Target) (s u : State) (h : hostRead addr width t s = .next u) :
    ∃ v, readTarget s t = some v ∧ u = { s with reads := s.reads ++ [⟨addr, width, v⟩] } := by
  unfold hostRead at h
  split at h
  · next v hv => exact ⟨v, hv, (Host.Outcome.next.inj h).symm⟩
  · cases h

/-- An event that neither runs a code nor resets leaves the result and PHASE alone. -/
theorem stepEvent_keepsResult (e : Event) (s u : State) (h : stepEvent runCode e s = .next u) (hreset : e ≠ .reset)
    (hinstr : ∀ c, e ≠ .instr c) : KeepsResult s u ∧ u.phase = s.phase := by
  cases e with
  | quiet =>
    cases h
    exact ⟨.refl s, rfl⟩
  | reset => exact absurd rfl hreset
  | instr c => exact absurd rfl (hinstr c)
  | write t v =>
    cases h
    obtain hw | ⟨r, hw⟩ := hostWrite_cases t v s
    · rw [hw]
      exact ⟨.refl s, rfl⟩
    · rw [hw]
      exact ⟨writeOperand_keepsResult r v s, writeOperand_phase r v s⟩
  | read addr width t =>
    obtain ⟨v, -, rfl⟩ := hostRead_eq_next addr width t s u h
    exact ⟨⟨rfl, rfl, rfl⟩, rfl⟩
  | buf i b =>
    cases h
    exact ⟨⟨rfl, rfl, rfl⟩, rfl⟩
  | refuse r => cases h

/-- Settles O35: the step is its event between two updates that touch only the host's actions and the counter. -/
theorem resultLastsUntilTheNextCommand : Obligations.ResultLastsUntilTheNextCommand := by
  intro s t hidle hstep hreset hinstr
  obtain ⟨u, hu, rfl⟩ := step_eq_next s t hstep
  obtain ⟨⟨hstatus, hdlen, hdigest⟩, hphase⟩ := stepEvent_keepsResult _ (consume s) u hu hreset hinstr
  exact ⟨⟨hstatus, hdlen, hdigest⟩, hphase.trans hidle⟩

end Sys2Proof.Machine
end

section
/-! SUPPORT. R144, R147: the step of a host read that has a value. -/
namespace Sys2Proof.Machine

/-- R172: an idle core answers a read of a register that has a value, and nothing else of the hardware changes. -/
theorem step_read_reg (s : State) (r : Reg) (v : W64) (rest : List HostAction) (hidle : s.phase = .idle)
    (hinputs : s.inputs = .read (s.params.base + regOffset r) (regWidth r) :: rest)
    (hv : readTarget s (.reg r) = some v) :
    step s = .next { s with
      reads := s.reads ++ [⟨s.params.base + regOffset r, regWidth r, v⟩]
      inputs := rest
      moment := s.moment + 1 } := by
  have hevent : hostEvent s (.read (s.params.base + regOffset r) (regWidth r)) =
      .read (s.params.base + regOffset r) (regWidth r) (.reg r) := by
    simp only [hostEvent, locateAt_base_add, locate_reg]
  rw [step_of_idle s _ rest hidle hinputs, hevent, stepEvent, hostRead, readTarget_inputs, hv]
  rfl

theorem bitwidthView_setWidth (s : State) : (bitwidthView s).setWidth 64 = BitVec.ofNat 64 (8 * s.dlen.toNat) := by
  rw [← bitwidthView_toNat, BitVec.ofNat_toNat]

theorem bitwidthView_of_dlen (s : State) (l : ResultLen) (h : s.dlen = l) :
    bitwidthView s = BitVec.ofNat 32 (8 * l.toNat) := by
  rw [bitwidthView, h]

/-- Settles O32: DLEN alone decides BITWIDTH, and it always has a value to read. -/
theorem bitwidthIsEightTimesDlen : Obligations.BitwidthIsEightTimesDlen := by
  refine fun s => ⟨bitwidthView_toNat s, ?pack32, ?pack128, bitwidthView_of_dlen s .none, ?read⟩
  case pack32 =>
    intro t ht
    cases ht
    exact bitwidthView_of_dlen _ .four rfl
  case pack128 =>
    intro t ht
    cases ht
    exact bitwidthView_of_dlen _ .sixteen rfl
  case read =>
    intro rest hidle hinputs
    rw [← bitwidthView_setWidth]
    exact step_read_reg s .bitwidth _ rest hidle hinputs rfl

theorem assemble_rdViewN_w32 (p : Config.Params) (h : p.nativeW = .w32) :
    assemble p (pseudoLines p .rdViewN) = [.read (p.base + regOffset .view32) (regWidth .view32)] := by
  simp [pseudoLines, h, assemble, lineActions]

theorem assemble_rdViewN_w64 (p : Config.Params) (h : p.nativeW = .w64) :
    assemble p (pseudoLines p .rdViewN) = [.read (p.base + regOffset .view64) (regWidth .view64)] := by
  simp [pseudoLines, h, assemble, lineActions]

/-- Settles O58: the expansion is one read of the view that NATIVE_W selects. -/
theorem platformWidthView : Obligations.PlatformWidthView := by
  intro s rest x y hidle hx hy hinputs
  cases hw : s.params.nativeW with
  | w32 =>
    have hread : readTarget s (.reg .view32) = some (x.setWidth 64) := by simp [readTarget, hx]
    rw [assemble_rdViewN_w32 s.params hw] at hinputs
    exact ⟨_, _, step_read_reg s .view32 _ rest hidle hinputs hread, rfl, rfl, rfl⟩
  | w64 =>
    rw [assemble_rdViewN_w64 s.params hw] at hinputs
    exact ⟨_, _, step_read_reg s .view64 y rest hidle hinputs hy, rfl, rfl, rfl⟩

end Sys2Proof.Machine
end

section
/-! SUPPORT. R160, R161: runs put together from steps, and the step of a busy core that no reset interrupts. -/
namespace Sys2Proof.Machine

/-- A run goes on from where a shorter one has come. -/
theorem run_add (j k : Nat) (s t : State) (h : run j s = .next t) : run (j + k) s = run k t := by
  induction j generalizing s with
  | zero =>
    cases h
    rw [Nat.zero_add]
  | succ j ih =>
    rw [Nat.succ_add]
    simp only [run, Host.Core.run] at h ⊢
    split at h
    · next u _ => exact ih u h
    · cases h
    · cases h

theorem run_one (s t : State) (h : step s = .next t) : run 1 s = .next t := by
  have hcore : core.step s = .next t := h
  simp only [run, Host.Core.run, hcore]
  rfl

/-- A run along a sequence of states each of which steps to the next one. -/
theorem run_of_steps (f : Nat → State) (n : Nat) (h : ∀ i, i < n → step (f i) = .next (f (i + 1))) :
    run n (f 0) = .next (f n) := by
  induction n with
  | zero => rfl
  | succ n ih =>
    rw [run_add n 1 _ _ (ih fun i hi => h i (by omega))]
    exact run_one _ _ (h n (by omega))

/-- R160: a busy core does the micro-operation of {VAR, PHASE} unless the reset event stands first. -/
theorem step_of_micro (s t : State) (v : Variant) (p : Phase) (i : Instr) (hvar : s.var = v) (hphase : s.phase = p)
    (hreset : ∀ n r, s.inputs ≠ .reset n :: r) (hdecode : decode (.uop (uopWord v p.code)) = .instr i)
    (hexec : exec i s = .next t) : step s = .next (tick t) := by
  have hbusy : s.phase ≠ .idle := by
    intro hidle
    rw [decode_uopWord, ← hphase, hidle] at hdecode
    cases hdecode
  have hdue : resetDue s.inputs = false := by
    unfold resetDue
    split
    · next r hr => exact absurd hr (hreset 0 r)
    · rfl
  have hafter : inputsAfter s = s.inputs := by
    unfold inputsAfter
    rw [if_neg hbusy]
    split
    · next r hr => exact absurd hr (hreset 0 r)
    · next n r hr => exact absurd hr (hreset (n + 1) r)
    · rfl
  have hconsume : consume s = s := by rw [consume, hafter]
  have hevent : nextEvent s = .instr (.uop (uopCode s)) := by simp [nextEvent, hbusy, hdue]
  rw [step, hevent, hconsume, stepEvent, runCode, uopCode, hvar, hphase, hdecode]
  exact congrArg (mapNext tick) hexec

/-- R67: the word issued is the encoding of the command. -/
theorem decode_commandWord (v : Variant) (src : Source) :
    decode (.cmd ((commandWord v src).setWidth 32)) = .instr (commandOf v src) := by
  cases v <;> cases src <;> decide

/-- R160: the first step of a command is its acceptance. -/
theorem step_of_aboutToIssue (s : State) (v : Variant) (src : Source) (rest : List HostAction)
    (h : AboutToIssue s v src rest) :
    step s = .next { s with
      status := statusClear, dlen := .none, var := v, src := src, phase := .check
      inputs := rest, moment := s.moment + 1 } := by
  obtain ⟨hidle, hnext, -⟩ := h
  have hlocate : locateAt s (s.params.base + 0x00) 32 = some (.reg .cmd) := by
    rw [locateAt_base_add]
    exact locate_reg .cmd
  have hevent : hostEvent s (issue s.params v src) = .instr (.cmd ((commandWord v src).setWidth 32)) := by
    simp only [issue, hostEvent, hlocate]
  rw [step_of_idle s _ rest hidle hnext, hevent, stepEvent, runCode, decode_commandWord]
  simp only [exec_commandOf]
  rw [accept_of_idle v src { s with inputs := rest } hidle]
  rfl

end Sys2Proof.Machine
end

section
/-! SUPPORT. R87, R93, R169: the window a passing `LEBD.CHECK` opens, and its bytes at every later
moment. -/
namespace Sys2Proof.Machine

/-- The index of the first input byte: OFFSET, or 0 in IBYTES (40_decomposer.md R87). -/
def sourceStart (s : State) : Source → W64
  | .bytes => s.offset
  | .i32 | .i64 => 0

/-- The state after acceptance and a passing check of a command on n bytes. -/
def opened (s : State) (v : Variant) (src : Source) (n : Nat) (rest : List HostAction) : State :=
  { s with
    status := statusClear
    dlen := .none
    var := v
    src := src
    pos := sourceStart s src
    len := BitVec.ofNat 64 n
    rem := BitVec.ofNat 64 n
    phase := .init
    inputs := rest
    moment := s.moment + 2 }

/-- A window open on the bytes B, all of them written, with no reset to interrupt the command. -/
structure OpenOn (w : State) (B : List Byte) : Prop where
  phase : w.phase = .init
  len : w.len = BitVec.ofNat 64 B.length
  rem : w.rem = BitVec.ofNat 64 B.length
  inRange : w.pos.toNat + B.length < 2 ^ 64
  bytes : ∀ m i, (h : i < B.length) → srcByte { w with moment := m } (w.pos.toNat + i) = some B[i]
  noReset : ∀ n r, w.inputs ≠ .reset n :: r

/-- R86: a range that holds has no negative end and ends inside INBUF. -/
theorem RangeHolds.inInbuf (s : State) (h : RangeHolds s) :
    s.offset.toNat + s.length.toNat ≤ s.params.inbufCap.val := by
  obtain ⟨ho, hl, hend, hcap⟩ := h
  rw [BitVec.toInt_eq_toNat_cond] at ho hl hend
  rw [BitVec.toInt_eq_toNat_cond] at hend
  have := s.offset.isLt
  have := s.length.isLt
  split_ifs at ho hl hend <;> omega

theorem checkOk_of_rangeHolds (s : State) (ho : s.written.offset = true) (hl : s.written.length = true)
    (hb : s.written.buflen = true) (h : RangeHolds s) : checkOk s = true := by
  rw [checkOk, operand_of_written s .offset ho, operand_of_written s .length hl, operand_of_written s .buflen hb]
  exact (rangeOk_iff _ _ _ _).mpr h

/-- R87: the check of a command's input passes and opens the window on it. -/
theorem execLebdCheck_of_inputIs (s : State) (v : Variant) (B : List Byte) (h : InputIs s s.src B) :
    execLebdCheck v s = .next (setWindow (sourceStart s s.src) (BitVec.ofNat 64 B.length) s) := by
  cases hsrc : s.src with
  | bytes =>
    rw [hsrc] at h
    obtain ⟨ho, hl, hb, hrange, hlen, -⟩ := h
    simp [execLebdCheck, hsrc, checkOk_of_rangeHolds s ho hl hb hrange, sourceStart, hlen, operand, isWritten,
      storedOperand, ho, hl]
  | i32 | i64 =>
    rw [hsrc] at h
    obtain ⟨-, rfl⟩ := h
    simp [execLebdCheck, hsrc, sourceStart]

/-- R160, R87: two steps bring a command to its open window. -/
theorem run_opens (s : State) (v : Variant) (src : Source) (B : List Byte) (rest : List HostAction)
    (h : AboutToIssue s v src rest) (hB : InputIs s src B) : run 2 s = .next (opened s v src B.length rest) := by
  rw [run_add 1 1 s _ (run_one _ _ (step_of_aboutToIssue s v src rest h))]
  refine run_one _ _ ?check
  exact step_of_micro _ _ v .check (.lebdCheck v) rfl rfl h.noReset (decode_uopWord v .check)
    (execLebdCheck_of_inputIs _ v B (by cases src <;> exact hB))

/-- R47, R169: the source bytes of an integer command are those of IDATA. -/
theorem srcByte_idata (s : State) (i : Nat) (hsrc : s.src ≠ .bytes) (hw : s.written.idata = true) (hi : i < 8) :
    srcByte s i = some (byteAt s.idata i) := by
  unfold srcByte
  cases hs : s.src with
  | bytes => exact absurd hs hsrc
  | i32 | i64 => simp only [if_pos hi, operand_of_written s .idata hw, storedOperand]

@[simp] theorem leBytes_getElem {w : Nat} (v : BitVec w) (n i : Nat) (h : i < (leBytes v n).length) :
    (leBytes v n)[i] = byteAt v i := by simp [leBytes]

theorem srcByte_inbuf (s : State) (i : Nat) (b : Byte) (hsrc : s.src = .bytes) (hi : i < s.params.inbufCap.val)
    (hb : Memory.lookup s.inbuf i = some b) : srcByte s i = some b := by
  simp only [srcByte, hsrc, if_pos hi, inbufByte, hb]

/-- R93: the window of a command lies on the command's input. -/
theorem openOn_opened (s : State) (v : Variant) (src : Source) (B : List Byte) (rest : List HostAction)
    (hrest : ∀ n r, rest ≠ .reset n :: r) (hB : InputIs s src B) : OpenOn (opened s v src B.length rest) B := by
  refine ⟨rfl, rfl, rfl, ?inRange, ?bytes, hrest⟩
  case inRange =>
    cases src with
    | bytes =>
      obtain ⟨-, -, -, hrange, hlen, -⟩ := hB
      have := hrange.inInbuf
      have := s.params.inbufCap.isLt
      simp only [opened, sourceStart]
      omega
    | i32 | i64 =>
      obtain ⟨-, rfl⟩ := hB
      simp [opened, sourceStart]
  case bytes =>
    intro m i hi
    cases src with
    | bytes =>
      obtain ⟨-, -, -, hrange, hlen, hbytes⟩ := hB
      have := hrange.inInbuf
      refine srcByte_inbuf _ _ _ rfl ?_ (hbytes i hi)
      simp only [opened, sourceStart]
      omega
    | i32 | i64 =>
      obtain ⟨hw, rfl⟩ := hB
      have hstart : (0 : W64).toNat + i = i := Nat.zero_add i
      rw [leBytes_length] at hi
      simp only [opened, sourceStart, hstart, leBytes_getElem]
      exact srcByte_idata _ i (by simp) hw (by omega)

end Sys2Proof.Machine
end

section
/-! SUPPORT. R91 to R93, R161: the window as a command uses it up, the accumulators left open. -/
namespace Sys2Proof.Machine

/-- The window w after k micro-operations that used up q of its bytes B. -/
def windowAt (w : State) (B : List Byte) (q k : Nat) (p : Phase) : State :=
  { w with
    pos := w.pos + BitVec.ofNat 64 q
    rem := BitVec.ofNat 64 (B.length - q)
    phase := p
    moment := w.moment + k }

/-- R161: the phase before block n of the window, or of the tail when n is the number of blocks. -/
def phaseAtBlock (v : Variant) (B : List Byte) (n : Nat) : Phase :=
  if n < B.length / blockSize v then .body else .tail

section
variable {w : State} {B : List Byte}

theorem windowAt_rem_toNat (hw : OpenOn w B) (q k : Nat) (p : Phase) :
    (windowAt w B q k p).rem.toNat = B.length - q := by
  have := hw.inRange
  simp only [windowAt, BitVec.toNat_ofNat]
  omega

theorem windowAt_pos_toNat (hw : OpenOn w B) (q k : Nat) (p : Phase) (h : q ≤ B.length) :
    (windowAt w B q k p).pos.toNat = w.pos.toNat + q := by
  have := hw.inRange
  simp only [windowAt, BitVec.toNat_add, BitVec.toNat_ofNat]
  omega

/-- R161: PHASE is chosen on the bytes left after n blocks. -/
theorem bodyOrTail_at_block (hw : OpenOn w B) (v : Variant) (n : Nat) :
    bodyOrTail v (BitVec.ofNat 64 (B.length - blockSize v * n)) = phaseAtBlock v B n := by
  have hrem : (BitVec.ofNat 64 (B.length - blockSize v * n)).toNat = B.length - blockSize v * n :=
    windowAt_rem_toNat hw (blockSize v * n) 0 .body
  rw [bodyOrTail, phaseAtBlock, hrem]
  congr 1
  cases v <;> simp only [blockSize_x86_32, blockSize_x64_128, eq_iff_iff] <;> omega

/-- R88 to R90: a read inside the window is the word of that slice of the input. -/
theorem memRead_window (hw : OpenOn w B) (bits addr q k a n : Nat) (p : Phase)
    (haddr : addr = (windowAt w B q k p).pos.toNat + a) (hq : q ≤ B.length) (hn : n ≤ B.length - (q + a)) :
    memRead bits (windowAt w B q k p) addr n = some (BitVec.ofNat bits (le (slice B (q + a) n))) := by
  have hlen : (slice B (q + a) n).length = n := by simp [slice, hn]
  have hread := memRead_of_bytes bits (windowAt w B q k p) addr (slice B (q + a) n) fun i hi => by
    rw [hlen] at hi
    have haddr' : addr + i = w.pos.toNat + (q + a + i) := by
      rw [haddr, windowAt_pos_toNat hw q k p hq]
      omega
    have hbyte := hw.bytes (w.moment + k) (q + a + i) (by omega)
    rw [haddr']
    exact hbyte.trans (by simp [slice])
  rwa [hlen] at hread

/-- A step counts one micro-operation. -/
theorem tick_windowAt (w : State) (B : List Byte) (q k : Nat) (p : Phase) :
    tick (windowAt w B q k p) = windowAt w B q (k + 1) p := rfl

/-- R161: after INIT nothing is used up. -/
theorem windowAt_of_init (hw : OpenOn w B) (v : Variant) :
    tick (toBodyOrTail v w) = windowAt w B (blockSize v * 0) 1 (phaseAtBlock v B 0) := by
  have hphase := bodyOrTail_at_block hw v 0
  simp only [Nat.mul_zero, Nat.sub_zero, ← hw.rem] at hphase
  simp [tick, toBodyOrTail, windowAt, hphase, ← hw.rem]

/-- R91: after a block the window stands at the next one. -/
theorem windowAt_of_block (hw : OpenOn w B) (v : Variant) (n k : Nat) (p : Phase) (h : n < B.length / blockSize v) :
    tick (toBodyOrTail v (adv (blockSize v) (windowAt w B (blockSize v * n) k p))) =
      windowAt w B (blockSize v * (n + 1)) (k + 1) (phaseAtBlock v B (n + 1)) := by
  have hle : blockSize v * n + blockSize v ≤ B.length := by
    rw [← Nat.mul_succ]
    exact (Nat.mul_le_mul_left _ h).trans (Nat.mul_div_le _ _)
  have hsize : blockSize v < 2 ^ 64 := by cases v <;> decide
  have hpos : w.pos + BitVec.ofNat 64 (blockSize v * n) + BitVec.ofNat 64 (blockSize v) =
      w.pos + BitVec.ofNat 64 (blockSize v * (n + 1)) := by
    rw [BitVec.add_assoc, ← BitVec.ofNat_add, Nat.mul_succ]
  have hrem : BitVec.ofNat 64 (B.length - blockSize v * n) - BitVec.ofNat 64 (blockSize v) =
      BitVec.ofNat 64 (B.length - blockSize v * (n + 1)) := by
    rw [BitVec.ofNat_sub_ofNat_of_le _ _ hsize (by omega), Nat.mul_succ, Nat.sub_sub]
  have hphase := bodyOrTail_at_block hw v (n + 1)
  simp only [tick, toBodyOrTail, adv, windowAt, hpos, hrem, hphase, Nat.add_assoc]

/-- R106, R126: the tail uses up all that is left. -/
theorem windowAt_of_tail (hw : OpenOn w B) (q k : Nat) (p : Phase) (h : q ≤ B.length) :
    tick { adv (windowAt w B q k p).rem.toNat (windowAt w B q k p) with phase := .final } =
      windowAt w B B.length (k + 1) .final := by
  have hpos : w.pos + BitVec.ofNat 64 q + BitVec.ofNat 64 (B.length - q) = w.pos + BitVec.ofNat 64 B.length := by
    rw [BitVec.add_assoc, ← BitVec.ofNat_add, Nat.add_sub_cancel' h]
  rw [windowAt_rem_toNat hw]
  simp only [tick, adv, windowAt, hpos, BitVec.sub_self, Nat.sub_self, Nat.add_assoc]
end

end Sys2Proof.Machine
end

section
/-! SUPPORT. R108, R128, R161: each micro-operation brings the accumulators one line further in the closed form. -/
namespace Sys2Proof.Machine

theorem blocks32_succ (seed : W32) (B : List Byte) (n : Nat) :
    blocks32 seed B (n + 1) = mixH1_32 (blocks32 seed B n) (mixK1_32 (word32 B (4 * n) 4)) := by
  simp only [blocks32, List.range_succ, List.foldl_append, List.foldl_cons, List.foldl_nil]

theorem blocks128_succ (seed : W64) (B : List Byte) (n : Nat) :
    blocks128 seed B (n + 1) =
      (blockLane1 (blocks128 seed B n).1 (blocks128 seed B n).2 (word64 B (16 * n) 8),
        blockLane2 (blockLane1 (blocks128 seed B n).1 (blocks128 seed B n).2 (word64 B (16 * n) 8))
          (blocks128 seed B n).2 (word64 B (16 * n + 8) 8)) := by
  simp only [blocks128, List.range_succ, List.foldl_append, List.foldl_cons, List.foldl_nil]

/-- The accumulators of both variants, set together. It has a name so that the lemmas about it are proved for any
values: the kernel then never unfolds a hash to compare two states. -/
def withAccumulators (a : W32) (b c : W64) (w : State) : State := { w with h1 := a, h1q := b, h2q := c }

@[simp] theorem withAccumulators_h1 (a : W32) (b c : W64) (w : State) : (withAccumulators a b c w).h1 = a := rfl

@[simp] theorem withAccumulators_h1q (a : W32) (b c : W64) (w : State) : (withAccumulators a b c w).h1q = b := rfl

@[simp] theorem withAccumulators_h2q (a : W32) (b c : W64) (w : State) : (withAccumulators a b c w).h2q = c := rfl

@[simp] theorem withAccumulators_var (a : W32) (b c : W64) (w : State) : (withAccumulators a b c w).var = w.var := rfl

/-- Setting the accumulators, whatever the values, leaves the window where it is. -/
theorem withAccumulators_windowAt (w : State) (B : List Byte) (q k : Nat) (p p' : Phase) (a : W32) (b c : W64) :
    ({ windowAt w B q k p with h1 := a, h1q := b, h2q := c, phase := p' } : State) =
      windowAt (withAccumulators a b c w) B q k p' := rfl

/-- The accumulators of a variant after n blocks of B. -/
def afterBlocks (v : Variant) (B : List Byte) (n : Nat) (w : State) : State :=
  match v with
  | .x86_32 => withAccumulators (blocks32 (w.seed.setWidth 32) B n) w.h1q w.h2q w
  | .x64_128 => withAccumulators w.h1 (blocks128 w.seed B n).1 (blocks128 w.seed B n).2 w

/-- The accumulators after the tail of B. -/
def afterTail (v : Variant) (B : List Byte) (w : State) : State :=
  let q := blockSize v * (B.length / blockSize v)
  match v with
  | .x86_32 =>
    withAccumulators
      (blocks32 (w.seed.setWidth 32) B (B.length / 4) ^^^ mixK1_32 (word32 B q (B.length - q))) w.h1q w.h2q w
  | .x64_128 =>
    withAccumulators w.h1
      ((blocks128 w.seed B (B.length / 16)).1 ^^^ mixK1_64 (word64 B q (min (B.length - q) 8)))
      ((blocks128 w.seed B (B.length / 16)).2 ^^^ mixK2_64 (word64 B (q + 8) (B.length - (q + 8)))) w

/-- The accumulators after FINAL. -/
def afterFinal (v : Variant) (w : State) : State :=
  match v with
  | .x86_32 => withAccumulators (fmix32 (w.h1 ^^^ w.len.setWidth 32)) w.h1q w.h2q w
  | .x64_128 => withAccumulators w.h1 (finalLanes w.h1q w.h2q w.len).1 (finalLanes w.h1q w.h2q w.len).2 w

/-- The accumulators holding the closed form. -/
def hashed (v : Variant) (B : List Byte) (w : State) : State :=
  match v with
  | .x86_32 => withAccumulators (murmur32 (w.seed.setWidth 32) B) w.h1q w.h2q w
  | .x64_128 => withAccumulators w.h1 (murmur128 w.seed B).1 (murmur128 w.seed B).2 w

/-- The result store after the packer of a variant. -/
def afterPack (v : Variant) (w : State) : State :=
  match v with
  | .x86_32 => { w with digest := memWrite w.digest 0 4 w.h1, dlen := .four, status := statusDone32 }
  | .x64_128 =>
    { w with
      digest := memWrite (memWrite w.digest 0 8 w.h1q) 8 8 w.h2q
      dlen := .sixteen
      status := statusDone128 }

section
variable {w : State} {B : List Byte}

/-- The accumulators have no part in where a window lies. -/
theorem OpenOn.withAccumulators (hw : OpenOn w B) (a : W32) (b c : W64) :
    OpenOn (withAccumulators a b c w) B :=
  ⟨hw.phase, hw.len, hw.rem, hw.inRange, hw.bytes, hw.noReset⟩

theorem OpenOn.afterBlocks (hw : OpenOn w B) (v : Variant) (n : Nat) : OpenOn (afterBlocks v B n w) B := by
  cases v <;> exact hw.withAccumulators _ _ _

theorem OpenOn.afterTail (hw : OpenOn w B) (v : Variant) : OpenOn (afterTail v B w) B := by
  cases v <;> exact hw.withAccumulators _ _ _

theorem OpenOn.hashed (hw : OpenOn w B) (v : Variant) : OpenOn (hashed v B w) B := by
  cases v <;> exact hw.withAccumulators _ _ _

theorem afterTail_var (v : Variant) : (afterTail v B w).var = w.var := by
  cases v <;> exact withAccumulators_var _ _ _ w

theorem hashed_var (v : Variant) : (hashed v B w).var = w.var := by
  cases v <;> exact withAccumulators_var _ _ _ w

/-- R104, R124: INIT begins the block loop. -/
theorem step_init (hw : OpenOn w B) (v : Variant) (hvar : w.var = v) :
    step w = .next (windowAt (afterBlocks v B 0 w) B (blockSize v * 0) 1 (phaseAtBlock v B 0)) := by
  rw [← windowAt_of_init (hw.afterBlocks v 0) v]
  cases v with
  | x86_32 => exact step_of_micro w _ _ _ .m32Init hvar hw.phase hw.noReset (decode_uopWord .x86_32 .init) rfl
  | x64_128 => exact step_of_micro w _ _ _ .m128Init hvar hw.phase hw.noReset (decode_uopWord .x64_128 .init) rfl

theorem execM32Block_windowAt (hw : OpenOn w B) (n k : Nat) (h : n < B.length / 4) :
    execM32Block (windowAt (afterBlocks .x86_32 B n w) B (4 * n) k .body) =
      .next (toBodyOrTail .x86_32 (adv 4 (windowAt (afterBlocks .x86_32 B (n + 1) w) B (4 * n) k .body))) := by
  obtain ⟨h1, hh1, hnext⟩ := execM32Block_next (windowAt (afterBlocks .x86_32 B n w) B (4 * n) k .body)
    (word32 B (4 * n) 4) (memRead_window (hw.afterBlocks _ n) 32 _ (4 * n) k 0 4 _ rfl (by omega) (by omega))
  have hacc : h1 = blocks32 (w.seed.setWidth 32) B (n + 1) := hh1.trans (blocks32_succ _ _ _).symm
  rw [hnext, hacc]
  rfl

theorem execM128Block_windowAt (hw : OpenOn w B) (n k : Nat) (h : n < B.length / 16) :
    execM128Block (windowAt (afterBlocks .x64_128 B n w) B (16 * n) k .body) =
      .next (toBodyOrTail .x64_128 (adv 16 (windowAt (afterBlocks .x64_128 B (n + 1) w) B (16 * n) k .body))) := by
  obtain ⟨n1, n2, hn1, hn2, hnext⟩ := execM128Block_next (windowAt (afterBlocks .x64_128 B n w) B (16 * n) k .body)
    (word64 B (16 * n) 8) (word64 B (16 * n + 8) 8)
    (memRead_window (hw.afterBlocks _ n) 64 _ (16 * n) k 0 8 _ rfl (by omega) (by omega))
    (memRead_window (hw.afterBlocks _ n) 64 _ (16 * n) k 8 8 _ rfl (by omega) (by omega))
  have hacc1 : n1 = (blocks128 w.seed B (n + 1)).1 := by
    rw [blocks128_succ]
    exact hn1
  have hacc2 : n2 = (blocks128 w.seed B (n + 1)).2 := by
    rw [blocks128_succ, hn2, hn1]
    rfl
  rw [hnext, hacc1, hacc2]
  rfl

/-- R105, R125: one block. -/
theorem step_block (hw : OpenOn w B) (v : Variant) (hvar : w.var = v) (n k : Nat) (h : n < B.length / blockSize v) :
    step (windowAt (afterBlocks v B n w) B (blockSize v * n) k (phaseAtBlock v B n)) =
      .next (windowAt (afterBlocks v B (n + 1) w) B (blockSize v * (n + 1)) (k + 1) (phaseAtBlock v B (n + 1))) := by
  have hbody : phaseAtBlock v B n = .body := if_pos h
  rw [hbody, ← windowAt_of_block (hw.afterBlocks v (n + 1)) v n k .body h]
  cases v with
  | x86_32 =>
    exact step_of_micro _ _ _ .body .m32Block hvar rfl hw.noReset (decode_uopWord .x86_32 .body)
      (execM32Block_windowAt hw n k h)
  | x64_128 =>
    exact step_of_micro _ _ _ .body .m128Block hvar rfl hw.noReset (decode_uopWord .x64_128 .body)
      (execM128Block_windowAt hw n k h)

theorem execM32Tail_windowAt (hw : OpenOn w B) (q k : Nat) (hq : q = 4 * (B.length / 4)) :
    let u := windowAt (afterTail .x86_32 B w) B q k .tail
    execM32Tail (windowAt (afterBlocks .x86_32 B (B.length / 4) w) B q k .tail) =
      .next { adv u.rem.toNat u with phase := .final } := by
  have hopen := hw.afterBlocks .x86_32 (B.length / 4)
  have hrem := windowAt_rem_toNat hopen q k .tail
  obtain ⟨h1, rfl, hnext⟩ := execM32Tail_next (windowAt (afterBlocks .x86_32 B (B.length / 4) w) B q k .tail)
    (word32 B q (B.length - q)) (by omega)
    (by rw [hrem]; exact memRead_window hopen 32 _ q k 0 _ _ rfl (by omega) (by omega))
  rw [hnext, ← after_tail_32, hq]
  rfl

theorem execM128Tail_windowAt (hw : OpenOn w B) (q k : Nat) (hq : q = 16 * (B.length / 16)) :
    let u := windowAt (afterTail .x64_128 B w) B q k .tail
    execM128Tail (windowAt (afterBlocks .x64_128 B (B.length / 16) w) B q k .tail) =
      .next { adv u.rem.toNat u with phase := .final } := by
  have hopen := hw.afterBlocks .x64_128 (B.length / 16)
  have hrem := windowAt_rem_toNat hopen q k .tail
  have hsecond : B.length - q - min (B.length - q) 8 = B.length - (q + 8) := by omega
  obtain ⟨n1, n2, rfl, rfl, hnext⟩ := execM128Tail_next
    (windowAt (afterBlocks .x64_128 B (B.length / 16) w) B q k .tail)
    (word64 B q (min (B.length - q) 8)) (word64 B (q + 8) (B.length - (q + 8))) (by omega)
    (by rw [hrem]; exact memRead_window hopen 64 _ q k 0 _ _ rfl (by omega) (by omega))
    (by rw [hrem, hsecond]; exact memRead_window hopen 64 _ q k 8 _ _ rfl (by omega) (by omega))
  rw [hnext, ← after_tail_128, hq]
  rfl

/-- R106, R126: the tail. -/
theorem step_tail (hw : OpenOn w B) (v : Variant) (hvar : w.var = v) (k : Nat) :
    let n := B.length / blockSize v
    step (windowAt (afterBlocks v B n w) B (blockSize v * n) k (phaseAtBlock v B n)) =
      .next (windowAt (afterTail v B w) B B.length (k + 1) .final) := by
  intro n
  have htail : phaseAtBlock v B n = .tail := if_neg (Nat.lt_irrefl _)
  rw [htail, ← windowAt_of_tail (hw.afterTail v) (blockSize v * n) k .tail (Nat.mul_div_le _ _)]
  cases v with
  | x86_32 =>
    exact step_of_micro _ _ _ .tail .m32Tail hvar rfl hw.noReset (decode_uopWord .x86_32 .tail)
      (execM32Tail_windowAt hw _ k rfl)
  | x64_128 =>
    exact step_of_micro _ _ _ .tail .m128Tail hvar rfl hw.noReset (decode_uopWord .x64_128 .tail)
      (execM128Tail_windowAt hw _ k rfl)

/-- R107, R127: FINAL. -/
theorem step_final (hw : OpenOn w B) (v : Variant) (hvar : w.var = v) (q k : Nat) :
    step (windowAt w B q k .final) = .next (windowAt (afterFinal v w) B q (k + 1) .pack) := by
  rw [← tick_windowAt]
  cases v with
  | x86_32 =>
    exact step_of_micro _ _ _ .final .m32Final hvar rfl hw.noReset (decode_uopWord .x86_32 .final)
      (congrArg Host.Outcome.next (withAccumulators_windowAt w B q k .final .pack _ _ _))
  | x64_128 =>
    exact step_of_micro _ _ _ .final .m128Final hvar rfl hw.noReset (decode_uopWord .x64_128 .final)
      (congrArg Host.Outcome.next (withAccumulators_windowAt w B q k .final .pack _ _ _))

/-- R141, R142: PACK stores the accumulators and ends the command. -/
theorem step_pack (hw : OpenOn w B) (v : Variant) (hvar : w.var = v) (q k : Nat) :
    step (windowAt w B q k .pack) = .next (windowAt (afterPack v w) B q (k + 1) .idle) := by
  rw [← tick_windowAt]
  cases v with
  | x86_32 => exact step_of_micro _ _ _ .pack .pack32 hvar rfl hw.noReset (decode_uopWord .x86_32 .pack) rfl
  | x64_128 => exact step_of_micro _ _ _ .pack .pack128 hvar rfl hw.noReset (decode_uopWord .x64_128 .pack) rfl

/-- R108, R128: FINAL ends the closed form, LEN being the length of B. -/
theorem afterFinal_afterTail (hw : OpenOn w B) (v : Variant) : afterFinal v (afterTail v B w) = hashed v B w := by
  cases v with
  | x86_32 =>
    have hlen : w.len.setWidth 32 = BitVec.ofNat 32 B.length := by
      rw [hw.len, BitVec.setWidth_ofNat_of_le (by decide)]
    simp only [afterFinal, afterTail, hashed, withAccumulators, murmur32, hlen, blockSize_x86_32]
  | x64_128 => simp only [afterFinal, afterTail, hashed, withAccumulators, murmur128, hw.len, blockSize_x64_128]

/-- R161, R168: the micro-operations after the check, BLOCK once for each full block. -/
theorem run_of_openOn (hw : OpenOn w B) (v : Variant) (hvar : w.var = v) :
    let n := B.length / blockSize v
    run (n + 4) w = .next (windowAt (afterPack v (hashed v B w)) B B.length (n + 4) .idle) := by
  intro n
  have hblocks := run_of_steps
    (fun i => windowAt (afterBlocks v B i w) B (blockSize v * i) (i + 1) (phaseAtBlock v B i)) n
    fun i hi => step_block hw v hvar i (i + 1) hi
  have htail := step_tail hw v hvar (n + 1)
  have hfinal := step_final (hw.afterTail v) v ((afterTail_var v).trans hvar) B.length (n + 2)
  rw [afterFinal_afterTail hw v] at hfinal
  have hpack := step_pack (hw.hashed v) v ((hashed_var v).trans hvar) B.length (n + 3)
  calc run (n + 4) w
      = run (1 + (n + 3)) w := by rw [Nat.add_comm 1 (n + 3)]
    _ = run (n + 3) _ := run_add 1 (n + 3) _ _ (run_one _ _ (step_init hw v hvar))
    _ = run (1 + 2) _ := run_add n 3 _ _ hblocks
    _ = run (1 + 1) _ := run_add 1 2 _ _ (run_one _ _ htail)
    _ = run 1 _ := run_add 1 1 _ _ (run_one _ _ hfinal)
    _ = _ := run_one _ _ hpack
end

/-- R169: a command's run to its end. -/
theorem run_command (s : State) (v : Variant) (src : Source) (B : List Byte) (rest : List HostAction)
    (h : AboutToIssue s v src rest) (hB : InputIs s src B) :
    let n := B.length / blockSize v
    run (6 + n) s =
      .next (windowAt (afterPack v (hashed v B (opened s v src B.length rest))) B B.length (n + 4) .idle) := by
  intro n
  calc run (6 + n) s
      = run (2 + (n + 4)) s := by rw [Nat.add_comm n 4, ← Nat.add_assoc]
    _ = run (n + 4) _ := run_add 2 (n + 4) _ _ (run_opens s v src B rest h hB)
    _ = _ := run_of_openOn (openOn_opened s v src B rest h.noReset hB) v rfl

end Sys2Proof.Machine
end

section
/-! SUPPORT. R169, R173: what a command leaves in the result store, and how the views read it. -/
namespace Sys2Proof.Machine

/-- The bytes of a result: the closed form of the variant, least significant byte first. -/
def hashBytes (v : Variant) (seed : W64) (B : List Byte) : List Byte :=
  match v with
  | .x86_32 => leBytes (murmur32 (seed.setWidth 32) B) 4
  | .x64_128 => leBytes (murmur128 seed B).1 8 ++ leBytes (murmur128 seed B).2 8

/-- DLEN after a command that ended without an error (43_result_packer.md R141, R142). -/
def resultLen : Variant → ResultLen
  | .x86_32 => .four
  | .x64_128 => .sixteen

/-- STATUS after a command that ended without an error. -/
def resultStatus : Variant → W32
  | .x86_32 => statusDone32
  | .x64_128 => statusDone128

/-- R14: a write's bytes stand behind those it leaves. -/
theorem memWrite_take {w : Nat} (d : Vector Byte 16) (addr n : Nat) (v : BitVec w) (h : addr + n ≤ 16) :
    (memWrite d addr n v).toList.take (addr + n) = d.toList.take addr ++ leBytes v n := by
  have hlen : (d.toList.take addr).length = addr := by
    rw [List.length_take, Vector.length_toList]
    omega
  refine List.ext_getElem (by simp; omega) fun i hi _ => ?_
  have hi' : i < addr + n := by
    rw [List.length_take] at hi
    omega
  rw [List.getElem_take, Vector.getElem_toList, memWrite_getElem _ _ _ _ i (by omega), List.getElem_append]
  by_cases hlow : i < addr
  · rw [if_neg (by omega), dif_pos (by omega), List.getElem_take, Vector.getElem_toList]
  · rw [if_pos (by omega), dif_neg (by omega), leBytes_getElem, hlen]

/-- The bytes of the accumulators of a variant. -/
def accumulatorBytes (v : Variant) (w : State) : List Byte :=
  match v with
  | .x86_32 => leBytes w.h1 4
  | .x64_128 => leBytes w.h1q 8 ++ leBytes w.h2q 8

/-- R141, R142: what a reader meets after the packer is the accumulators. -/
theorem digestPrefix_afterPack (v : Variant) (w : State) :
    digestPrefix (afterPack v w) (afterPack v w).dlen.toNat = accumulatorBytes v w := by
  cases v with
  | x86_32 => exact memWrite_take w.digest 0 4 w.h1 (by decide)
  | x64_128 =>
    have hlow := memWrite_take w.digest 0 8 w.h1q (by decide)
    have hboth := memWrite_take (memWrite w.digest 0 8 w.h1q) 8 8 w.h2q (by decide)
    exact hboth.trans (congrArg (· ++ leBytes w.h2q 8) hlow)

theorem accumulatorBytes_hashed (v : Variant) (B : List Byte) (w : State) :
    accumulatorBytes v (hashed v B w) = hashBytes v w.seed B := by
  cases v with
  | x86_32 => simp only [accumulatorBytes, hashed, hashBytes, withAccumulators_h1]
  | x64_128 => simp only [accumulatorBytes, hashed, hashBytes, withAccumulators_h1q, withAccumulators_h2q]

theorem afterPack_dlen (v : Variant) (w : State) : (afterPack v w).dlen = resultLen v := by cases v <;> rfl

theorem afterPack_status (v : Variant) (w : State) : (afterPack v w).status = resultStatus v := by cases v <;> rfl

/-- R169: a command ends with the closed form of its seed and its input, and that is all a reader meets. -/
theorem run_command_result (s : State) (v : Variant) (src : Source) (B : List Byte) (rest : List HostAction)
    (h : AboutToIssue s v src rest) (hB : InputIs s src B) :
    ∃ t, run (6 + B.length / blockSize v) s = .next t ∧ t.dlen = resultLen v ∧ t.status = resultStatus v ∧
      digestPrefix t t.dlen.toNat = hashBytes v s.seed B :=
  ⟨_, run_command s v src B rest h hB, afterPack_dlen v _, afterPack_status v _,
    (digestPrefix_afterPack v _).trans (accumulatorBytes_hashed v B (opened s v src B.length rest))⟩

/-- R143: a byte is read from what DLEN shows of DIGEST. -/
theorem digestView_eq_digestPrefix (s : State) (i : Nat) : digestView s i = (digestPrefix s s.dlen.toNat)[i]? := by
  rw [digestView, digestPrefix, List.getElem?_take, Vector.getElem?_toList]

theorem digestPrefix_min (s : State) (n : Nat) :
    digestPrefix s (min s.dlen.toNat n) = (digestPrefix s s.dlen.toNat).take n := by
  rw [digestPrefix, digestPrefix, List.take_take, Nat.min_comm]

/-- R143 to R148: every view is read from DLEN and the bytes of DIGEST below it. -/
theorem views_eq_of_digestPrefix (s t : State) (hlen : s.dlen = t.dlen)
    (hbytes : digestPrefix s s.dlen.toNat = digestPrefix t t.dlen.toNat) :
    (∀ i, digestView s i = digestView t i) ∧ (∀ j, hexView s j = hexView t j) ∧ view32 s = view32 t ∧
      view64 s = view64 t := by
  have hdigest : ∀ i, digestView s i = digestView t i := fun i => by
    rw [digestView_eq_digestPrefix, digestView_eq_digestPrefix, hbytes]
  refine ⟨hdigest, fun j => ?hex, ?word32, ?word64⟩
  case hex => rw [hexView, hexView, hdigest]
  case word32 => rw [view32, view32, digestPrefix_min, digestPrefix_min, hbytes, hlen]
  case word64 => rw [view64, view64, digestPrefix_min, digestPrefix_min, hbytes, hlen]

/-- R173: of the seed, `x86_32` takes the low half alone. -/
theorem hashBytes_congr_seed (v : Variant) (seed seed' : W64) (B : List Byte)
    (h32 : v = .x86_32 → seed.setWidth 32 = seed'.setWidth 32) (h128 : v = .x64_128 → seed = seed') :
    hashBytes v seed B = hashBytes v seed' B := by
  cases v with
  | x86_32 => rw [hashBytes, hashBytes, h32 rfl]
  | x64_128 => rw [h128 rfl]

/-- Settles O56: each command ends with the closed form of its own seed and input, and the two closed forms agree. -/
theorem resultDependsOnSeedAndInputOnly : Obligations.ResultDependsOnSeedAndInputOnly := by
  intro s t v src src' B rest rest' hs ht hsB htB h32 h128
  obtain ⟨s', hrun, hlen, hstatus, hbytes⟩ := run_command_result s v src B rest hs hsB
  obtain ⟨t', hrun', hlen', hstatus', hbytes'⟩ := run_command_result t v src' B rest' ht htB
  have hsame : digestPrefix s' s'.dlen.toNat = digestPrefix t' t'.dlen.toNat := by
    rw [hbytes, hbytes', hashBytes_congr_seed v s.seed t.seed B h32 h128]
  exact ⟨s', t', hrun, hrun', hlen.trans hlen'.symm, hstatus.trans hstatus'.symm,
    views_eq_of_digestPrefix s' t' (hlen.trans hlen'.symm) hsame⟩

end Sys2Proof.Machine
end

section
/-! SUPPORT. R66 to R72: the encoder inverts the decoder in both formats, and the well-formed codes are those that decode. -/
namespace Sys2Proof.Machine

theorem encode_commandOf (v : Variant) (src : Source) :
    encode (commandOf v src) = .cmd (cmdWord (varselOf v) (srcselOf src)) := by
  cases v <;> cases src <;> rfl

/-- R66, R67: the three fields of a command's word fix the word. -/
theorem eq_cmdWord_of_fields (w : W32) (v : Variant) (src : Source) (hz : zeroField w = 0) (hv : varsel w = varselOf v)
    (hs : srcsel w = srcselOf src) : w = cmdWord (varselOf v) (srcselOf src) := by
  have hzero := (zeroField_eq_zero_iff w).mp hz
  have hvarsel := hv ▸ varsel_toNat w
  have hsrcsel := hs ▸ srcsel_toNat w
  have hw : w.toNat = 16 * (varselOf v).toNat + (srcselOf src).toNat := by omega
  refine BitVec.eq_of_toNat_eq (hw.trans ?_)
  cases v <;> cases src <;> rfl

/-- R70 to R72: a code is that of a variant and a phase, or its PHASE is the reserved 7. -/
theorem uopWord_cases (c : BitVec 4) : (∃ v p, c = uopWord v (Phase.code p)) ∨ phaseField c = 7 := by
  have hfields : ∀ c : BitVec 4, c = uopWord (variantOfBit (varField c)) (phaseField c) := by decide
  have hphase : ∀ f : BitVec 3, f ≠ 7 → (phaseOfCode f).map Phase.code = some f := by decide
  by_cases h7 : phaseField c = 7
  · exact .inr h7
  · obtain ⟨p, -, hp⟩ := Option.map_eq_some_iff.mp (hphase _ h7)
    exact .inl ⟨_, p, hp ▸ hfields c⟩

theorem decode_uop_reserved (c : BitVec 4) (h : phaseField c = 7) : decode (.uop c) = .reject .reservedUop := by
  simp only [decode, decodeUop, h]
  rfl

/-- R71: the code of a variant and a phase is that of an instruction exactly when the phase is not idle. -/
theorem exists_decode_uopWord_iff (v : Variant) (p : Phase) :
    (∃ i, decode (.uop (uopWord v p.code)) = .instr i) ↔ p ≠ .idle := by
  rw [decode_uopWord]
  cases p with
  | idle => simp
  | check | init | body | tail | final | pack => cases v <;> simp

/-- R67, R71: decoding what was encoded gives the instruction back. -/
theorem decode_encode (i : Instr) : decode (encode i) = .instr i := by
  cases i with
  | lebdCheck v => cases v <;> decide
  | _ => decide

/-- R67, R71: encoding what was decoded gives the code back. -/
theorem encode_of_decode (c : Code) (i : Instr) (h : decode c = .instr i) : encode i = c := by
  cases c with
  | cmd w =>
    obtain ⟨v, src, rfl, hz, hv, hs⟩ := (decode_cmd_eq_instr_iff w i).mp h
    rw [encode_commandOf, ← eq_cmdWord_of_fields w v src hz hv hs]
  | uop c =>
    obtain ⟨v, p, rfl⟩ | h7 := uopWord_cases c
    · rw [decode_uopWord] at h
      cases p with
      | idle => cases h
      | check | init | body | tail | final | pack => cases v <;> cases h <;> rfl
    · rw [decode_uop_reserved c h7] at h
      cases h

theorem decode_eq_instr_iff (c : Code) (i : Instr) : decode c = .instr i ↔ c = encode i :=
  ⟨fun h => (encode_of_decode c i h).symm, fun h => h ▸ decode_encode i⟩

/-- R66: each conjunct of the check is the choice of one field. -/
theorem cmdWordWf_iff (w : W32) : cmdWordWf w = true ↔ ∃ i, decode (.cmd w) = .instr i := by
  rw [exists_decode_cmd_iff, exists_varsel_iff, exists_srcsel_iff, ← varsel_toNat, ← srcsel_toNat]
  simp [cmdWordWf, BitVec.toNat_eq, and_assoc, or_assoc]

/-- R71, R72: of all the codes only those of an idle core and the reserved ones are ill formed. -/
theorem uopCodeWf_iff (c : BitVec 4) : uopCodeWf c = true ↔ ∃ i, decode (.uop c) = .instr i := by
  obtain ⟨v, p, rfl⟩ | h7 := uopWord_cases c
  · rw [exists_decode_uopWord_iff]
    cases v <;> cases p <;> decide
  · simp [decode_uop_reserved c h7, uopCodeWf, h7]

/-- Settles O1: the two inversions, and the check of each format, which accepts just the codes that decode. -/
theorem decodeAndEncodeAgree : Obligations.DecodeAndEncodeAgree := by
  refine ⟨fun i _ => decode_encode i, encode_of_decode, fun c => ?wellFormed⟩
  case wellFormed =>
    cases c with
    | cmd w => exact cmdWordWf_iff w
    | uop c => exact uopCodeWf_iff c

theorem reject_of_decode_cmd (w : W32) (r : Reject) (h : decode (.cmd w) = .reject r) : r = .illegalCommand := by
  simp only [decode, decodeCmd] at h
  split_ifs at h <;> cases h
  all_goals rfl

/-- R68: a word is an illegal command exactly when it is no command. -/
theorem decode_cmd_reject_iff (w : W32) :
    decode (.cmd w) = .reject .illegalCommand ↔ ¬ ∃ i, decode (.cmd w) = .instr i := by
  cases h : decode (.cmd w) with
  | instr i => simp
  | reject r => simp [reject_of_decode_cmd w r h]

/-- R67: the six words of the command map are those that decode to a command. -/
theorem exists_decode_cmd_iff_mem (w : W32) :
    (∃ i, decode (.cmd w) = .instr i) ↔
      w ∈ [0x00000010#32, 0x00000011#32, 0x00000012#32, 0x00000020#32, 0x00000021#32, 0x00000022#32] := by
  constructor
  · rintro ⟨i, hi⟩
    obtain ⟨v, src, -, hz, hv, hs⟩ := (decode_cmd_eq_instr_iff w i).mp hi
    rw [eq_cmdWord_of_fields w v src hz hv hs]
    cases v <;> cases src <;> decide
  · simp only [List.mem_cons, List.not_mem_nil, or_false]
    rintro (rfl | rfl | rfl | rfl | rfl | rfl)
    · exact ⟨_, decode_encode .hash32Bytes⟩
    · exact ⟨_, decode_encode .hash32I32⟩
    · exact ⟨_, decode_encode .hash32I64⟩
    · exact ⟨_, decode_encode .hash128Bytes⟩
    · exact ⟨_, decode_encode .hash128I32⟩
    · exact ⟨_, decode_encode .hash128I64⟩

/-- Settles O3: a command's word is what the encoder gives for it, and a word that is none of the six is rejected. -/
theorem eachCommandIsOneWord : Obligations.EachCommandIsOneWord := by
  intro w
  have hword : ∀ i w', encode i = .cmd w' → (decode (.cmd w) = .instr i ↔ w = w') := fun i w' he => by
    rw [decode_eq_instr_iff, he, Code.cmd.injEq]
  refine ⟨hword _ _ rfl, hword _ _ rfl, hword _ _ rfl, hword _ _ rfl, hword _ _ rfl, hword _ _ rfl, ?_⟩
  rw [decode_cmd_reject_iff, exists_decode_cmd_iff_mem]

/-- Settles O4: each code is the one the encoder gives, or has a field that names no instruction. -/
theorem writtenOutCodesDecode : Obligations.WrittenOutCodesDecode := by
  refine ⟨decode_encode .hash32Bytes, decode_encode .hash128I64, decode_encode (.lebdCheck .x86_32),
    decode_encode (.lebdCheck .x64_128), decode_encode .m32Block, decode_encode .m128Block, decode_encode .pack32,
    decode_encode .pack128, ?illegal, decode_uop_reserved _ (by decide)⟩
  case illegal =>
    rw [decode_cmd_reject_iff, exists_decode_cmd_iff_mem]
    decide

end Sys2Proof.Machine
end

section
/-! SUPPORT. R160, R170: the step of a command written to CMD, and the step of a busy core. -/
namespace Sys2Proof.Machine

/-- R160: an idle core whose host writes a word to CMD runs that word as a code. -/
theorem step_of_cmd_write (s : State) (v : W64) (rest : List HostAction) (hidle : s.phase = .idle)
    (hinputs : s.inputs = .write (s.params.base + 0x00) 32 v :: rest) :
    step s = mapNext tick (runCode (.cmd (v.setWidth 32)) { s with inputs := rest }) := by
  have hlocate : locateAt s (s.params.base + 0x00) 32 = some (.reg .cmd) :=
    (locateAt_base_add s 0x00 32).trans (locate_reg .cmd)
  have hevent : hostEvent s (.write (s.params.base + 0x00) 32 v) = .instr (.cmd (v.setWidth 32)) := by
    simp only [hostEvent, hlocate]
  rw [step_of_idle s _ rest hidle hinputs, hevent, stepEvent]

theorem runCode_of_decode (c : Code) (i : Instr) (s : State) (h : decode c = .instr i) : runCode c s = exec i s := by
  rw [runCode, h]

theorem runCode_of_reject (c : Code) (r : Reject) (s : State) (h : decode c = .reject r) :
    runCode c s = undecoded r s := by
  rw [runCode, h]

/-- Settles O5: the event of the write is the word itself, and running it is `exec` of what it decodes to. -/
theorem stepRunsTheCommandWritten : Obligations.StepRunsTheCommandWritten := by
  intro s v rest i hidle hinputs hdecode
  rw [step_of_cmd_write s v rest hidle hinputs, runCode_of_decode _ i _ hdecode]

theorem acceptIllegal_of_idle (s : State) (h : s.phase = .idle) :
    acceptIllegal s = { s with status := 0x0000000A, dlen := .none } := by
  simp [acceptIllegal, raiseError, discardOutcome, statusOfError, HwError.code, h]

/-- Settles O7: a word that is none of the six is rejected, and what rejection runs is the error entry. -/
theorem illegalCommandIsReported : Obligations.IllegalCommandIsReported := by
  intro s v rest hidle hinputs hword
  have hreject : decode (.cmd (v.setWidth 32)) = .reject .illegalCommand := by
    rwa [decode_cmd_reject_iff, exists_decode_cmd_iff_mem]
  rw [step_of_cmd_write s v rest hidle hinputs, runCode_of_reject _ _ _ hreject, undecoded,
    acceptIllegal_of_idle { s with inputs := rest } hidle]
  rfl

/-- R160, R170: a busy core runs its own code, unless a reset is due. -/
theorem step_of_busy (s : State) (hbusy : s.phase ≠ .idle) (hdue : resetDue s.inputs = false) :
    step s = mapNext tick (runCode (.uop (uopCode s)) (consume s)) := by
  have hevent : nextEvent s = .instr (.uop (uopCode s)) := by simp [nextEvent, hbusy, hdue]
  rw [step, hevent, stepEvent]

theorem resetDue_of_no_reset (as : List HostAction) (h : ∀ n rest, as ≠ .reset n :: rest) : resetDue as = false := by
  unfold resetDue
  split
  · next rest => exact absurd rfl (h 0 rest)
  · rfl

theorem consume_of_no_reset (s : State) (hbusy : s.phase ≠ .idle) (h : ∀ n rest, s.inputs ≠ .reset n :: rest) :
    consume s = s := by
  have hafter : inputsAfter s = s.inputs := by
    rw [inputsAfter, if_neg hbusy]
    split
    · next rest hi => exact absurd hi (h 0 rest)
    · next n rest hi => exact absurd hi (h (n + 1) rest)
    · rfl
  rw [consume, hafter]

theorem consume_of_reset_to_come (s : State) (n : Nat) (rest : List HostAction) (hbusy : s.phase ≠ .idle)
    (h : s.inputs = .reset (n + 1) :: rest) : consume s = { s with inputs := .reset n :: rest } := by
  rw [consume, inputsAfter, if_neg hbusy, h]

/-- Settles O6: the phase being one of R71's table, the code decodes; the two clauses differ in what becomes of the host's
actions. -/
theorem stepRunsTheMicroOperation : Obligations.StepRunsTheMicroOperation := by
  intro s hbusy
  obtain ⟨i, hdecode⟩ := (exists_decode_uopWord_iff s.var s.phase).mpr hbusy
  refine ⟨i, hdecode, fun hnone => ?noReset, fun n rest hreset => ?resetToCome⟩
  case noReset =>
    rw [step_of_busy s hbusy (resetDue_of_no_reset _ hnone), consume_of_no_reset s hbusy hnone,
      runCode_of_decode (.uop (uopCode s)) i _ hdecode]
  case resetToCome =>
    rw [step_of_busy s hbusy (by rw [hreset]; rfl), consume_of_reset_to_come s n rest hbusy hreset,
      runCode_of_decode (.uop (uopCode s)) i _ hdecode]

/-- Settles O8: each command is the acceptance of its variant and form, which an idle core never refuses. -/
theorem acceptanceOfTheSixCommands : Obligations.AcceptanceOfTheSixCommands := by
  intro s hidle
  have haccept := fun v src => (exec_commandOf v src s).trans (accept_of_idle v src s hidle)
  exact ⟨haccept .x86_32 .bytes, haccept .x86_32 .i32, haccept .x86_32 .i64,
    haccept .x64_128 .bytes, haccept .x64_128 .i32, haccept .x64_128 .i64⟩

theorem accept_of_busy (v : Variant) (src : Source) (s : State) (h : s.phase ≠ .idle) :
    accept v src s = .refused .coreBusy :=
  if_neg h

/-- The event of a busy core is the reset or its own micro-operation. -/
theorem nextEvent_of_busy (s : State) (hbusy : s.phase ≠ .idle) :
    nextEvent s = .reset ∨ nextEvent s = .instr (.uop (uopCode s)) := by
  rw [nextEvent, if_neg hbusy]
  split
  · exact .inl rfl
  · exact .inr rfl

/-- Settles O9: `exec` of a command is its acceptance, refused while the core runs; and no event of a running core carries a
command word. -/
theorem commandsAreRefusedWhileTheCoreRuns : Obligations.CommandsAreRefusedWhileTheCoreRuns := by
  intro s i w hbusy hdecode
  obtain ⟨v, src, rfl, -, -, -⟩ := (decode_cmd_eq_instr_iff w i).mp hdecode
  refine ⟨(exec_commandOf v src s).trans (accept_of_busy v src s hbusy), fun hcmd => ?_⟩
  rcases nextEvent_of_busy s hbusy with hevent | hevent
  · rw [hevent] at hcmd
    cases hcmd
  · rw [hevent] at hcmd
    cases hcmd

end Sys2Proof.Machine
end

section
/-! SUPPORT. R87: both outcomes of `LEBD.CHECK`, on the values the three registers read as. -/
namespace Sys2Proof.Machine

/-- Settles O11: the integer forms open a fixed window and read no register. -/
theorem checkOfAnIntegerSource : Obligations.CheckOfAnIntegerSource := by
  refine fun s v => ⟨fun hsrc => ?_, fun hsrc => ?_⟩
  · simp only [exec, execLebdCheck, hsrc, setWindow]
  · simp only [exec, execLebdCheck, hsrc, setWindow]

theorem checkOk_iff (s : State) :
    checkOk s = true ↔
      0 ≤ (operand s .offset).toInt ∧ 0 ≤ (operand s .length).toInt ∧
        (operand s .offset).toInt + (operand s .length).toInt ≤ ((operand s .buflen).toNat : Int) ∧
        (operand s .buflen).toNat ≤ s.params.inbufCap.val :=
  rangeOk_iff _ _ _ _

theorem execLebdCheck_bytes_of_ok (s : State) (v : Variant) (hsrc : s.src = .bytes) (hok : checkOk s = true) :
    execLebdCheck v s = .next (setWindow (operand s .offset) (operand s .length) s) := by
  simp only [execLebdCheck, hsrc, if_pos hok]

theorem execLebdCheck_bytes_of_not_ok (s : State) (v : Variant) (hsrc : s.src = .bytes) (hok : ¬ checkOk s = true) :
    execLebdCheck v s = .next (raiseError .boundsViolation s) := by
  simp only [execLebdCheck, hsrc, if_neg hok]

/-- A 64-bit register that is not negative is below 2^63 and the same number signed and unsigned. -/
theorem toNat_eq_toInt_of_nonneg (x : W64) (h : 0 ≤ x.toInt) : (x.toNat : Int) = x.toInt ∧ x.toNat < 2 ^ 63 := by
  have := x.isLt
  rw [BitVec.toInt_eq_toNat_cond] at h ⊢
  split_ifs at h ⊢ with hx
  all_goals omega

/-- Settles O12: RangeOK selects the outcome, and its first two conditions keep POS and LEN below 2^63. -/
theorem checkOfARange : Obligations.CheckOfARange := by
  rintro s v _ _ _ hsrc rfl rfl rfl
  rw [← checkOk_iff]
  refine ⟨fun hok => ?inRange, fun hbad => execLebdCheck_bytes_of_not_ok s v hsrc hbad⟩
  case inRange =>
    obtain ⟨ho, hl, -, -⟩ := (checkOk_iff s).mp hok
    obtain ⟨hoInt, hoLt⟩ := toNat_eq_toInt_of_nonneg _ ho
    obtain ⟨hlInt, hlLt⟩ := toNat_eq_toInt_of_nonneg _ hl
    exact ⟨execLebdCheck_bytes_of_ok s v hsrc hok, hoInt, hlInt, hoLt, hlLt⟩

end Sys2Proof.Machine
end

section
/-! SUPPORT. R45 to R48, R88 to R90: which source bytes exist, and what the decomposer's reads make of them. -/
namespace Sys2Proof.Machine

/-- R45: the index range of the selected source. -/
def sourceSize (s : State) : Nat :=
  match s.src with
  | .bytes => s.params.inbufCap.val
  | .i32 | .i64 => 8

theorem srcByte_eq_none_iff (s : State) (i : Nat) : srcByte s i = none ↔ sourceSize s ≤ i := by
  unfold srcByte sourceSize
  cases s.src with
  | bytes => simp
  | i32 | i64 => simp

/-- Settles O13: INBUF and IDATA are read by the lemmas of the two sources, and the index range tells which bytes exist. -/
theorem sourceByteIsInbufOrIdata : Obligations.SourceByteIsInbufOrIdata := by
  intro s i
  refine ⟨fun hsrc hi b hb => srcByte_inbuf s i b hsrc hi hb, fun hsrc => ?inbufRange, fun hsrc => ?idataRange,
    fun hsrc hw hi => ⟨_, srcByte_idata s i hsrc hw hi, byteAt_toNat _ _⟩⟩
  case inbufRange => rw [srcByte_eq_none_iff, sourceSize, hsrc]
  case idataRange =>
    rw [srcByte_eq_none_iff, sourceSize]
    cases hs : s.src with
    | bytes => exact absurd hs hsrc
    | i32 | i64 => rfl

/-- R88 to R90: a read of bytes that exist, few enough for the word, is their little-endian sum. -/
theorem memRead_of_fitting_bytes (w : Nat) (s : State) (p : Nat) (bs : List Byte) (hfit : 8 * bs.length ≤ w)
    (h : ∀ i, (hi : i < bs.length) → srcByte s (p + i) = some bs[i]) :
    ∃ k, memRead w s p bs.length = some k ∧ k.toNat = le bs := by
  refine ⟨_, memRead_of_bytes w s p bs h, ?_⟩
  rw [BitVec.toNat_ofNat, Nat.mod_eq_of_lt ((le_lt bs).trans_le (Nat.pow_le_pow_right (by decide) hfit))]

/-- R88: the read of four bytes that exist. -/
theorem lebdRd32_of_bytes (s : State) (p : Nat) (b0 b1 b2 b3 : Byte) (h0 : srcByte s p = some b0)
    (h1 : srcByte s (p + 1) = some b1) (h2 : srcByte s (p + 2) = some b2) (h3 : srcByte s (p + 3) = some b3) :
    ∃ k, lebdRd32 s p = some k ∧
      k.toNat = b0.toNat + b1.toNat * 2 ^ 8 + b2.toNat * 2 ^ 16 + b3.toNat * 2 ^ 24 := by
  obtain ⟨k, hread, hk⟩ := memRead_of_fitting_bytes 32 s p [b0, b1, b2, b3] (by simp) fun i hi => by
    match i, hi with
    | 0, _ => exact h0
    | 1, _ => exact h1
    | 2, _ => exact h2
    | 3, _ => exact h3
  refine ⟨k, hread, hk.trans ?_⟩
  simp only [le_cons, le_nil]
  omega

/-- A read fails exactly when one of its bytes does not exist. -/
theorem srcBytes_eq_none_iff (s : State) (p n : Nat) :
    srcBytes s p n = none ↔ ∃ i, i < n ∧ srcByte s (p + i) = none := by
  induction n generalizing p with
  | zero => simp [srcBytes]
  | succ n ih =>
    have htail : (∃ i, i < n ∧ srcByte s (p + 1 + i) = none) ↔ ∃ i, i < n ∧ srcByte s (p + (i + 1)) = none := by
      simp only [Nat.add_assoc, Nat.add_comm 1]
    rw [Nat.exists_lt_succ_left, ← htail, ← ih, srcBytes, Nat.add_zero]
    cases srcByte s p <;> cases srcBytes s (p + 1) n <;> simp

theorem memRead_eq_none_iff (w : Nat) (s : State) (p n : Nat) :
    memRead w s p n = none ↔ ∃ i, i < n ∧ srcByte s (p + i) = none := by
  rw [memRead, Option.map_eq_none_iff, srcBytes_eq_none_iff]

/-- Settles O15: each read takes no more bytes than its word has room for. -/
theorem decomposerReads : Obligations.DecomposerReads := by
  intro s p
  refine ⟨lebdRd32_of_bytes s p, fun bs hlen h => ?rd64, fun bs hlen h => ?tail32, fun bs hlen h => ?tail64,
    fun w n => memRead_eq_none_iff w s p n⟩
  case rd64 =>
    rw [← le_eq_sum, lebdRd64, ← hlen]
    exact memRead_of_fitting_bytes 64 s p bs (by omega) h
  case tail32 =>
    rw [← le_eq_sum]
    exact memRead_of_fitting_bytes 32 s p bs (by omega) h
  case tail64 =>
    rw [← le_eq_sum]
    exact memRead_of_fitting_bytes 64 s p bs (by omega) h

end Sys2Proof.Machine
end

section
/-! SUPPORT. R105, R106, R125, R126: the BLOCK and TAIL micro-operations on source bytes that exist, and their faults. -/
namespace Sys2Proof.Machine

/-- Settles O20: the word is the read of R88, and REM being at least 4 it does not wrap. -/
theorem m32BlockMixesOneBlock : Obligations.M32BlockMixesOneBlock := by
  intro s b0 b1 b2 b3 hrem h0 h1 h2 h3
  obtain ⟨k, hread, hk⟩ := lebdRd32_of_bytes s _ b0 b1 b2 b3 h0 h1 h2 h3
  obtain ⟨h, rfl, hnext⟩ := execM32Block_next s k hread
  rw [bodyOrTail_sub_4 _ hrem] at hnext
  exact ⟨k, hk, hnext⟩

/-- Settles O21: the word is the read of R90 on all the bytes that remain. -/
theorem m32TailMixesTheTail : Obligations.M32TailMixesTheTail := by
  intro s bs hrem hlen hbytes
  obtain ⟨k, hread, hk⟩ := memRead_of_fitting_bytes 32 s _ bs (by omega) hbytes
  obtain ⟨h, rfl, hnext⟩ := execM32Tail_next s k hrem (hlen ▸ hread)
  exact ⟨k, hk.trans (le_eq_sum bs), hnext⟩

section
variable {s : State} {p : Nat} {bs : List Byte}

theorem srcByte_take (h : ∀ i, (hi : i < bs.length) → srcByte s (p + i) = some bs[i]) (n : Nat) :
    ∀ i, (hi : i < (bs.take n).length) → srcByte s (p + i) = some (bs.take n)[i] := by
  intro i hi
  rw [List.getElem_take]
  exact h i _

theorem srcByte_drop (h : ∀ i, (hi : i < bs.length) → srcByte s (p + i) = some bs[i]) (n : Nat) :
    ∀ i, (hi : i < (bs.drop n).length) → srcByte s (p + n + i) = some (bs.drop n)[i] := by
  intro i hi
  rw [List.getElem_drop, Nat.add_assoc]
  exact h _ _

/-- R125, R126: the bytes of a block or tail of `x64_128` are read in two words of at most eight. -/
theorem memRead_two_words (hlen : bs.length ≤ 16) (h : ∀ i, (hi : i < bs.length) → srcByte s (p + i) = some bs[i]) :
    ∃ k1 k2 : W64, memRead 64 s p (bs.take 8).length = some k1 ∧ memRead 64 s (p + 8) (bs.drop 8).length = some k2 ∧
      k1.toNat = le (bs.take 8) ∧ k2.toNat = le (bs.drop 8) := by
  obtain ⟨k1, hread1, hk1⟩ := memRead_of_fitting_bytes 64 s p (bs.take 8) (by simp; omega) (srcByte_take h 8)
  obtain ⟨k2, hread2, hk2⟩ := memRead_of_fitting_bytes 64 s (p + 8) (bs.drop 8) (by simp; omega) (srcByte_drop h 8)
  exact ⟨k1, k2, hread1, hread2, hk1, hk2⟩
end

/-- R125: the lanes after a block, with the library's rotation. -/
theorem blockLane1_eq (h1 h2 k1 : W64) :
    blockLane1 h1 h2 k1 = ((h1 ^^^ mixK1_64 k1).rotateLeft 27 + h2) * 5#64 + 0x52dce729#64 := by
  rw [blockLane1, rotl_eq_rotateLeft _ _ (by decide)]

theorem blockLane2_eq (n1 h2 k2 : W64) :
    blockLane2 n1 h2 k2 = ((h2 ^^^ mixK2_64 k2).rotateLeft 31 + n1) * 5#64 + 0x38495ab5#64 := by
  rw [blockLane2, rotl_eq_rotateLeft _ _ (by decide)]

/-- Settles O24: lane 2 is computed from the lane 1 just produced, and REM being at least 16 it does not wrap. -/
theorem m128BlockMixesOneBlock : Obligations.M128BlockMixesOneBlock := by
  intro s bs hrem hlen hbytes
  have hlow : (bs.take 8).length = 8 := by simp [hlen]
  have hhigh : (bs.drop 8).length = 8 := by simp [hlen]
  obtain ⟨k1, k2, hread1, hread2, hk1, hk2⟩ := memRead_two_words hlen.le hbytes
  rw [hlow] at hread1
  rw [hhigh] at hread2
  obtain ⟨n1, n2, hn1, hn2, hnext⟩ := execM128Block_next s k1 k2 hread1 hread2
  rw [bodyOrTail_sub_16 _ hrem] at hnext
  exact ⟨k1, k2, n1, n2, hk1, hk2, hn1.trans (blockLane1_eq _ _ _), hn2.trans (blockLane2_eq _ _ _), hnext⟩

/-- Settles O25: the second word has seven bytes at most. -/
theorem m128TailMixesTheTail : Obligations.M128TailMixesTheTail := by
  intro s bs hrem hlen hbytes
  have hlow : (bs.take 8).length = min s.rem.toNat 8 := by simp [hlen, Nat.min_comm]
  have hhigh : (bs.drop 8).length = s.rem.toNat - min s.rem.toNat 8 := by simp [hlen]; omega
  obtain ⟨k1, k2, hread1, hread2, hk1, hk2⟩ := memRead_two_words (by omega) hbytes
  rw [hlow] at hread1
  rw [hhigh] at hread2
  obtain ⟨n1, n2, rfl, rfl, hnext⟩ := execM128Tail_next s k1 k2 hrem hread1 hread2
  refine ⟨k1, k2, hk1, hk2, ?small, hnext⟩
  case small =>
    rw [hk2]
    exact (le_lt _).trans_le (Nat.pow_le_pow_right (by decide) (by omega))

theorem execM32Block_of_missing_byte (s : State) (i : Nat) (hi : i < 4) (h : srcByte s (s.pos.toNat + i) = none) :
    execM32Block s = .fault .noSuchByte := by
  have hread : lebdRd32 s s.pos.toNat = none := (memRead_eq_none_iff 32 s _ 4).mpr ⟨i, hi, h⟩
  rw [execM32Block, hread]

theorem execM32Tail_of_missing_byte (s : State) (i : Nat) (hi : i < s.rem.toNat) (hrem : s.rem.toNat ≤ 3)
    (h : srcByte s (s.pos.toNat + i) = none) : execM32Tail s = .fault .noSuchByte := by
  have hread : lebdRdTail32 s s.pos.toNat s.rem.toNat = none := (memRead_eq_none_iff 32 s _ _).mpr ⟨i, hi, h⟩
  simp only [execM32Tail, if_pos hrem, hread]

theorem execM32Tail_of_long_tail (s : State) (h : 3 < s.rem.toNat) : execM32Tail s = .fault .tailTooLong :=
  if_neg (Nat.not_le.2 h)

theorem execM128Tail_of_long_tail (s : State) (h : 15 < s.rem.toNat) : execM128Tail s = .fault .tailTooLong :=
  if_neg (Nat.not_le.2 h)

/-- A missing byte of a block or tail of `x64_128` is missing in one of the two reads. -/
theorem memRead_two_words_of_missing_byte (s : State) (p n1 n2 i : Nat) (hi : i < n1 + n2) (hn1 : n1 = 8 ∨ n2 = 0)
    (h : srcByte s (p + i) = none) : memRead 64 s p n1 = none ∨ memRead 64 s (p + 8) n2 = none := by
  by_cases hlow : i < n1
  · exact .inl ((memRead_eq_none_iff 64 s p n1).mpr ⟨i, hlow, h⟩)
  · have hindex : p + 8 + (i - 8) = p + i := by omega
    exact .inr ((memRead_eq_none_iff 64 s (p + 8) n2).mpr ⟨i - 8, by omega, hindex ▸ h⟩)

theorem execM128Block_of_missing_byte (s : State) (i : Nat) (hi : i < 16) (h : srcByte s (s.pos.toNat + i) = none) :
    execM128Block s = .fault .noSuchByte := by
  unfold execM128Block lebdRd64
  rcases memRead_two_words_of_missing_byte s s.pos.toNat 8 8 i hi (.inl rfl) h with hread | hread
  · rw [hread]
  · rw [hread]
    split
    · next heq => cases heq
    · rfl

theorem execM128Tail_of_missing_byte (s : State) (i : Nat) (hi : i < s.rem.toNat) (hrem : s.rem.toNat ≤ 15)
    (h : srcByte s (s.pos.toNat + i) = none) : execM128Tail s = .fault .noSuchByte := by
  have hmissing := memRead_two_words_of_missing_byte s s.pos.toNat (min s.rem.toNat 8)
    (s.rem.toNat - min s.rem.toNat 8) i (by omega) (by omega) h
  simp only [execM128Tail, if_pos hrem, lebdRdTail64]
  rcases hmissing with hread | hread
  · rw [hread]
  · rw [hread]
    split
    · next heq => cases heq
    · rfl

/-- Settles O28: a read of a byte that does not exist answers nothing, and so does one of the two reads of `x64_128`. -/
theorem mixersFaultOutsideTheirPreconditions : Obligations.MixersFaultOutsideTheirPreconditions :=
  fun s => ⟨execM32Tail_of_long_tail s, execM128Tail_of_long_tail s, execM32Block_of_missing_byte s,
    execM128Block_of_missing_byte s, execM32Tail_of_missing_byte s, execM128Tail_of_missing_byte s⟩

end Sys2Proof.Machine
end

section
/-! SUPPORT. R143 to R148: which bytes and characters of a result exist, and the word views as the number its bytes make. -/
namespace Sys2Proof.Machine

theorem digestView_eq_none_iff (s : State) (i : Nat) : digestView s i = none ↔ s.dlen.toNat ≤ i := by
  refine ⟨fun h => Nat.not_lt.1 fun hi => ?_, digestView_of_dlen_le s i⟩
  rw [digestView_of_lt s i (hi.trans_le (dlen_le_sixteen s)) hi] at h
  cases h

/-- R148: a character exists exactly where its byte does. -/
theorem hexView_eq_none_iff (s : State) (j : Nat) : hexView s j = none ↔ 2 * s.dlen.toNat ≤ j := by
  have hbyte : hexView s j = none ↔ digestView s (j / 2) = none := by
    cases h : digestView s (j / 2) <;> simp [hexView, h]
  rw [hbyte, digestView_eq_none_iff]
  omega

/-- Settles O33: a character is read from its byte, and is missing exactly where the byte is. -/
theorem hexViewIsLowerCaseHighNibbleFirst : Obligations.HexViewIsLowerCaseHighNibbleFirst :=
  fun s j => ⟨fun b hb => hexView_of_digestView s j b hb, hexView_eq_none_iff s j⟩

/-- A word of 8*k bits keeps the first k bytes of a sequence. -/
theorem ofNat_le_take (bs : List Byte) (k : Nat) : BitVec.ofNat (8 * k) (le (bs.take k)) = BitVec.ofNat (8 * k) (le bs) :=
  BitVec.eq_of_toNat_eq (by simp [le_take])

/-- R145: VIEW32 is the number of the result's bytes, modulo 2^32. -/
theorem view32_eq_le (s : State) (h : s.dlen ≠ .none) :
    view32 s = some (BitVec.ofNat 32 (le (digestPrefix s s.dlen.toNat))) := by
  rw [view32, if_neg h, digestPrefix_min]
  exact congrArg some (ofNat_le_take _ 4)

/-- R146: VIEW64 is the number of the result's bytes, modulo 2^64. -/
theorem view64_eq_le (s : State) (h : s.dlen ≠ .none) :
    view64 s = some (BitVec.ofNat 64 (le (digestPrefix s s.dlen.toNat))) := by
  rw [view64, if_neg h, digestPrefix_min]
  exact congrArg some (ofNat_le_take _ 8)

theorem le_accumulatorBytes_x86_32 (s : State) : le (accumulatorBytes .x86_32 s) = s.h1.toNat := by
  rw [accumulatorBytes, le_leBytes, Nat.mod_eq_of_lt s.h1.isLt]

theorem le_accumulatorBytes_x64_128 (s : State) :
    le (accumulatorBytes .x64_128 s) = s.h1q.toNat + 2 ^ 64 * s.h2q.toNat := by
  rw [accumulatorBytes, le_append, le_leBytes, le_leBytes, leBytes_length, Nat.mod_eq_of_lt s.h1q.isLt,
    Nat.mod_eq_of_lt s.h2q.isLt]

/-- R143 to R146: the views after the packer of a variant, in terms of the number the accumulators make. -/
theorem views_afterPack (v : Variant) (s : State) :
    view32 (afterPack v s) = some (BitVec.ofNat 32 (le (accumulatorBytes v s))) ∧
      view64 (afterPack v s) = some (BitVec.ofNat 64 (le (accumulatorBytes v s))) ∧
      bitwidthView (afterPack v s) = BitVec.ofNat 32 (8 * (resultLen v).toNat) ∧
      (∀ i, digestView (afterPack v s) i = none ↔ (resultLen v).toNat ≤ i) ∧
      ∀ j, hexView (afterPack v s) j = none ↔ 2 * (resultLen v).toNat ≤ j := by
  have hres : (afterPack v s).dlen ≠ .none := by cases v <;> simp [afterPack]
  rw [view32_eq_le _ hres, view64_eq_le _ hres, digestPrefix_afterPack, ← afterPack_dlen v s]
  exact ⟨rfl, rfl, rfl, digestView_eq_none_iff _, hexView_eq_none_iff _⟩

theorem exec_pack32 (s : State) : exec .pack32 s = .next { afterPack .x86_32 s with phase := .idle } := rfl

theorem exec_pack128 (s : State) : exec .pack128 s = .next { afterPack .x64_128 s with phase := .idle } := rfl

/-- Settles O31: the number of the result is H1, or H1Q with H2Q above it, of which the views keep 32 and 64 bits. -/
theorem viewsAfterAPack : Obligations.ViewsAfterAPack := by
  refine fun s t => ⟨fun h => ?pack32, fun h => ?pack128⟩
  case pack32 =>
    obtain rfl : { afterPack .x86_32 s with phase := .idle } = t := Host.Outcome.next.inj ((exec_pack32 s).symm.trans h)
    obtain ⟨h32, h64, hwidth, hdigest, hhex⟩ := views_afterPack .x86_32 s
    rw [le_accumulatorBytes_x86_32] at h32 h64
    have hsmall : s.h1.toNat < 2 ^ 64 := by omega
    refine ⟨h32.trans (by simp), ⟨_, h64, ?_⟩, hwidth, hdigest, hhex⟩
    rw [BitVec.toNat_ofNat, Nat.mod_eq_of_lt hsmall]
  case pack128 =>
    obtain rfl : { afterPack .x64_128 s with phase := .idle } = t := Host.Outcome.next.inj ((exec_pack128 s).symm.trans h)
    obtain ⟨h32, h64, hwidth, hdigest, hhex⟩ := views_afterPack .x64_128 s
    rw [le_accumulatorBytes_x64_128] at h32 h64
    refine ⟨⟨_, h32, ?low⟩, h64.trans (congrArg some ?whole), hwidth, hdigest, hhex⟩
    case low =>
      rw [BitVec.toNat_ofNat]
      omega
    case whole =>
      refine BitVec.eq_of_toNat_eq ?_
      rw [BitVec.toNat_ofNat]
      omega

end Sys2Proof.Machine
end

section
/-! SUPPORT. R161 and the frames: what each group of instructions can write at all, and the phase each leaves. -/
namespace Sys2Proof.Machine

/-- The micro-operations of murmur32_mixer. -/
def mixers32 : List Instr := [.m32Init, .m32Block, .m32Tail, .m32Final]

/-- The micro-operations of murmur128_mixer. -/
def mixers128 : List Instr := [.m128Init, .m128Block, .m128Tail, .m128Final]

/-- The micro-operations of hash_result_packer. -/
def packers : List Instr := [.pack32, .pack128]

theorem instr_cases (i : Instr) :
    (∃ v src, i = commandOf v src) ∨ (∃ v, i = .lebdCheck v) ∨ i ∈ mixers32 ∨ i ∈ mixers128 ∨ i ∈ packers := by
  cases i with
  | hash32Bytes => exact .inl ⟨.x86_32, .bytes, rfl⟩
  | hash32I32 => exact .inl ⟨.x86_32, .i32, rfl⟩
  | hash32I64 => exact .inl ⟨.x86_32, .i64, rfl⟩
  | hash128Bytes => exact .inl ⟨.x64_128, .bytes, rfl⟩
  | hash128I32 => exact .inl ⟨.x64_128, .i32, rfl⟩
  | hash128I64 => exact .inl ⟨.x64_128, .i64, rfl⟩
  | lebdCheck v => exact .inr (.inl ⟨v, rfl⟩)
  | m32Init | m32Block | m32Tail | m32Final => exact .inr (.inr (.inl (by decide)))
  | m128Init | m128Block | m128Tail | m128Final => exact .inr (.inr (.inr (.inl (by decide))))
  | pack32 | pack128 => exact .inr (.inr (.inr (.inr (by decide))))

section
variable {i : Instr} {s t : State}

theorem exec_command_eq_next (v : Variant) (src : Source) (h : exec (commandOf v src) s = .next t) :
    s.phase = .idle ∧ t = { discardOutcome s with var := v, src := src, phase := .check } :=
  accept_eq_next v src s t ((exec_commandOf v src s).symm.trans h)

/-- R87: `LEBD.CHECK` opens a window or takes the error entry. -/
theorem exec_lebdCheck_eq_next (v : Variant) (h : exec (.lebdCheck v) s = .next t) :
    (∃ p l, t = setWindow p l s) ∨ t = raiseError .boundsViolation s := by
  cases Host.Outcome.next.inj h
  cases s.src with
  | bytes =>
    by_cases hok : checkOk s = true
    · exact .inl ⟨_, _, if_pos hok⟩
    · exact .inr (if_neg hok)
  | i32 => exact .inl ⟨0, 4, rfl⟩
  | i64 => exact .inl ⟨0, 8, rfl⟩

/-- R104 to R107: the micro-operations of `x86_32` write H1, POS, REM and PHASE. -/
theorem exec_mixers32_eq_next (hi : i ∈ mixers32) (h : exec i s = .next t) :
    ∃ a p r ph, t = { s with h1 := a, pos := p, rem := r, phase := ph } := by
  simp only [mixers32, List.mem_cons, List.not_mem_nil, or_false] at hi
  rcases hi with rfl | rfl | rfl | rfl
  · cases h
    exact ⟨_, _, _, _, rfl⟩
  · obtain ⟨k, -, rfl⟩ := execM32Block_eq_next s t h
    exact ⟨_, _, _, _, rfl⟩
  · obtain ⟨-, k, -, rfl⟩ := execM32Tail_eq_next s t h
    exact ⟨_, _, _, _, rfl⟩
  · cases h
    exact ⟨_, _, _, _, rfl⟩

/-- R124 to R127: the micro-operations of `x64_128` write the lanes, POS, REM and PHASE. -/
theorem exec_mixers128_eq_next (hi : i ∈ mixers128) (h : exec i s = .next t) :
    ∃ a b p r ph, t = { s with h1q := a, h2q := b, pos := p, rem := r, phase := ph } := by
  simp only [mixers128, List.mem_cons, List.not_mem_nil, or_false] at hi
  rcases hi with rfl | rfl | rfl | rfl
  · cases h
    exact ⟨_, _, _, _, _, rfl⟩
  · obtain ⟨k1, k2, -, -, rfl⟩ := execM128Block_eq_next s t h
    exact ⟨_, _, _, _, _, rfl⟩
  · obtain ⟨-, k1, k2, -, -, rfl⟩ := execM128Tail_eq_next s t h
    exact ⟨_, _, _, _, _, rfl⟩
  · cases h
    exact ⟨_, _, _, _, _, rfl⟩

/-- R141, R142: the packers write the result store, STATUS and PHASE. -/
theorem exec_packers_eq_next (hi : i ∈ packers) (h : exec i s = .next t) :
    ∃ d l st, t = { s with digest := d, dlen := l, status := st, phase := .idle } := by
  simp only [packers, List.mem_cons, List.not_mem_nil, or_false] at hi
  rcases hi with rfl | rfl
  · cases h
    exact ⟨_, _, _, rfl⟩
  · cases h
    exact ⟨_, _, _, rfl⟩
end

/-- The host's side of a state, the rest being that of another one. -/
def withHostOf (s t : State) : State :=
  { t with
    seed := s.seed, idata := s.idata, offset := s.offset, length := s.length, buflen := s.buflen
    inbuf := s.inbuf, params := s.params, written := s.written
    moment := s.moment, inputs := s.inputs, reads := s.reads }

theorem keepsHost_of_eq {s t : State} (h : t = withHostOf s t) : KeepsOperands s t ∧ KeepsModelSide s t := by
  rw [h]
  exact ⟨⟨rfl, rfl, rfl, rfl, rfl, rfl, rfl, fun _ => rfl, rfl⟩, ⟨rfl, rfl, rfl⟩⟩

/-- Settles O37: no group's writes reach the host's side. -/
theorem noInstructionWritesOperandsOrInbuf : Obligations.NoInstructionWritesOperandsOrInbuf := by
  intro i s t h
  obtain ⟨v, src, rfl⟩ | ⟨v, rfl⟩ | hi | hi | hi := instr_cases i
  · obtain ⟨-, rfl⟩ := exec_command_eq_next v src h
    exact keepsHost_of_eq rfl
  · obtain ⟨p, l, rfl⟩ | rfl := exec_lebdCheck_eq_next v h
    · exact keepsHost_of_eq rfl
    · exact keepsHost_of_eq rfl
  · obtain ⟨a, p, r, ph, rfl⟩ := exec_mixers32_eq_next hi h
    exact keepsHost_of_eq rfl
  · obtain ⟨a, b, p, r, ph, rfl⟩ := exec_mixers128_eq_next hi h
    exact keepsHost_of_eq rfl
  · obtain ⟨d, l, st, rfl⟩ := exec_packers_eq_next hi h
    exact keepsHost_of_eq rfl

theorem mem_commands {i : Instr}
    (hi : i ∈ [.hash32Bytes, .hash32I32, .hash32I64, .hash128Bytes, .hash128I32, .hash128I64]) :
    ∃ v src, i = commandOf v src := by
  simp only [List.mem_cons, List.not_mem_nil, or_false] at hi
  rcases hi with rfl | rfl | rfl | rfl | rfl | rfl
  · exact ⟨.x86_32, .bytes, rfl⟩
  · exact ⟨.x86_32, .i32, rfl⟩
  · exact ⟨.x86_32, .i64, rfl⟩
  · exact ⟨.x64_128, .bytes, rfl⟩
  · exact ⟨.x64_128, .i32, rfl⟩
  · exact ⟨.x64_128, .i64, rfl⟩

/-- Settles O38: each clause is the list of what its group writes, INIT and FINAL leaving the window too. -/
theorem framesByGroup : Obligations.FramesByGroup := by
  refine fun i s t h => ⟨fun hi => ?commands, fun v hi => ?check, fun hi => ?mixers32, fun hi => ?mixers128,
    fun hi => ?window, fun hi => ?packers⟩
  case commands =>
    obtain ⟨v, src, rfl⟩ := mem_commands hi
    obtain ⟨-, rfl⟩ := exec_command_eq_next v src h
    exact ⟨rfl, rfl, rfl, rfl, rfl, rfl, rfl⟩
  case check =>
    subst hi
    obtain ⟨p, l, rfl⟩ | rfl := exec_lebdCheck_eq_next v h
    · exact ⟨rfl, rfl, rfl, rfl, rfl, rfl⟩
    · exact ⟨rfl, rfl, rfl, rfl, rfl, rfl⟩
  case mixers32 =>
    obtain ⟨a, p, r, ph, rfl⟩ := exec_mixers32_eq_next hi h
    exact ⟨rfl, rfl, rfl, rfl, rfl, rfl, rfl, rfl⟩
  case mixers128 =>
    obtain ⟨a, b, p, r, ph, rfl⟩ := exec_mixers128_eq_next hi h
    exact ⟨rfl, rfl, rfl, rfl, rfl, rfl, rfl⟩
  case window =>
    simp only [List.mem_cons, List.not_mem_nil, or_false] at hi
    rcases hi with rfl | rfl | rfl | rfl <;> cases h <;> exact ⟨rfl, rfl⟩
  case packers =>
    obtain ⟨d, l, st, rfl⟩ := exec_packers_eq_next hi h
    exact ⟨rfl, rfl, rfl, rfl, rfl, rfl, rfl, rfl⟩

/-- Settles O36: each micro-operation sets PHASE last, INIT and BLOCK by the REM they leave. -/
theorem sequencerTransitions : Obligations.SequencerTransitions := by
  intro s t
  refine ⟨fun v h => ?check, fun h => ?init32, fun h => ?init128, fun h => ?block32, fun h => ?block128,
    fun h => ?tail32, fun h => ?tail128, fun h => ?final32, fun h => ?final128, fun h => ?pack32, fun h => ?pack128⟩
  case check =>
    obtain ⟨p, l, rfl⟩ | rfl := exec_lebdCheck_eq_next v h
    · exact .inr ⟨rfl, rfl⟩
    · exact .inl ⟨rfl, rfl⟩
  case block32 =>
    obtain ⟨k, -, rfl⟩ := execM32Block_eq_next s t h
    exact bodyOrTail_x86_32 _
  case block128 =>
    obtain ⟨k1, k2, -, -, rfl⟩ := execM128Block_eq_next s t h
    exact bodyOrTail_x64_128 _
  case tail32 =>
    obtain ⟨-, k, -, rfl⟩ := execM32Tail_eq_next s t h
    rfl
  case tail128 =>
    obtain ⟨-, k1, k2, -, -, rfl⟩ := execM128Tail_eq_next s t h
    rfl
  case init32 =>
    cases h
    exact bodyOrTail_x86_32 _
  case init128 =>
    cases h
    exact bodyOrTail_x64_128 _
  case final32 | final128 | pack32 | pack128 =>
    cases h
    rfl

end Sys2Proof.Machine
end

section
/-! SUPPORT. R46, R171: the host's side of the machine is changed by the host's writes and the reset event alone. -/
namespace Sys2Proof.Machine

/-- The register of the block that an operand register is. -/
def operandPort : OperandReg → Reg
  | .seed => .seed
  | .idata => .idata
  | .offset => .offset
  | .length => .length
  | .buflen => .buflen

theorem hostWrite_reg (r : OperandReg) (v : W64) (s : State) :
    hostWrite (.reg (operandPort r)) v s = writeOperand r v s := by
  cases r <;> rfl

/-- R171: a host write to anything but CMD writes the operand register it names, or nothing. -/
theorem hostWrite_target_cases (tgt : Target) (v : W64) (s : State) :
    hostWrite tgt v s = s ∨ ∃ r : OperandReg, tgt = .reg (operandPort r) ∧ hostWrite tgt v s = writeOperand r v s := by
  cases tgt with
  | reg r =>
    cases r with
    | seed => exact .inr ⟨.seed, rfl, rfl⟩
    | idata => exact .inr ⟨.idata, rfl, rfl⟩
    | offset => exact .inr ⟨.offset, rfl, rfl⟩
    | length => exact .inr ⟨.length, rfl, rfl⟩
    | buflen => exact .inr ⟨.buflen, rfl, rfl⟩
    | cmd | status | view32 | view64 | bitwidth => exact .inl rfl
  | digest i => exact .inl rfl
  | hex j => exact .inl rfl
  | reserved => exact .inl rfl

theorem KeepsOperands.refl (s : State) : KeepsOperands s s :=
  ⟨rfl, rfl, rfl, rfl, rfl, rfl, rfl, fun _ => rfl, rfl⟩

theorem undecoded_keepsOperands (r : Reject) (s u : State) (h : undecoded r s = .next u) : KeepsOperands s u := by
  cases r with
  | illegalCommand =>
    cases h
    exact (keepsHost_of_eq rfl).1
  | coreIdle => cases h
  | reservedUop => cases h

/-- A code that runs, an instruction or none, leaves the host's side alone. -/
theorem runCode_keepsOperands (c : Code) (s u : State) (h : runCode c s = .next u) : KeepsOperands s u := by
  cases hd : decode c with
  | instr i => exact (noInstructionWritesOperandsOrInbuf i s u ((runCode_of_decode c i s hd).symm.trans h)).1
  | reject r => exact undecoded_keepsOperands r s u ((runCode_of_reject c r s hd).symm.trans h)

/-- What an event other than the reset does to the host's side: nothing, or one write of one operand register or byte. -/
theorem stepEvent_operand_cases (e : Event) (s u : State) (h : stepEvent runCode e s = .next u) (hreset : e ≠ .reset) :
    KeepsOperands s u ∨ (∃ (r : OperandReg) (v : W64), e = .write (.reg (operandPort r)) v ∧ u = writeOperand r v s) ∨
      ∃ i b, e = .buf i b ∧ u = writeInbuf i b s := by
  cases e with
  | quiet =>
    cases h
    exact .inl (.refl s)
  | reset => exact absurd rfl hreset
  | instr c => exact .inl (runCode_keepsOperands c s u h)
  | write tgt v =>
    cases h
    obtain hw | ⟨r, rfl, hw⟩ := hostWrite_target_cases tgt v s
    · rw [hw]
      exact .inl (.refl s)
    · exact .inr (.inl ⟨r, v, rfl, hw⟩)
  | read addr width tgt =>
    obtain ⟨v, -, rfl⟩ := hostRead_eq_next addr width tgt s u h
    exact .inl ⟨rfl, rfl, rfl, rfl, rfl, rfl, rfl, fun _ => rfl, rfl⟩
  | buf i b =>
    cases h
    exact .inr (.inr ⟨i, b, rfl, rfl⟩)
  | refuse r => cases h

theorem lookup_writeInbuf_cases (s : State) (i j : Nat) (b : Byte) :
    Memory.lookup (writeInbuf i b s).inbuf j = Memory.lookup s.inbuf j ∨
      j = i ∧ Memory.lookup (writeInbuf i b s).inbuf j = some b := by
  by_cases hij : j = i
  · subst hij
    exact .inr ⟨rfl, Memory.lookup_store_same _ _ _⟩
  · exact .inl (Memory.lookup_store_other _ _ _ _ hij)

/-- Settles O39: of the three things an event can do to the host's side, each leaves every other register and byte. -/
theorem onlyTheHostChangesOperandsAndInbuf : Obligations.OnlyTheHostChangesOperandsAndInbuf := by
  intro s t hstep hreset
  obtain ⟨u, hu, rfl⟩ := step_eq_next s t hstep
  obtain hkeeps | ⟨r, v, he, rfl⟩ | ⟨i, b, he, rfl⟩ := stepEvent_operand_cases _ (consume s) u hu hreset
  · obtain ⟨hseed, hidata, hoffset, hlength, hbuflen, -, -, hinbuf, hparams⟩ := hkeeps
    exact ⟨.inl hseed, .inl hidata, .inl hoffset, .inl hlength, .inl hbuflen, fun i => .inl (hinbuf i), hparams⟩
  · rw [he]
    cases r <;> simp [operandPort]
  · rw [he]
    refine ⟨.inl rfl, .inl rfl, .inl rfl, .inl rfl, .inl rfl, fun j => ?byte, rfl⟩
    case byte =>
      obtain hsame | ⟨rfl, hb⟩ := lookup_writeInbuf_cases (consume s) i j b
      · exact .inl hsame
      · exact .inr ⟨b, rfl, hb⟩

end Sys2Proof.Machine
end

section
/-! SUPPORT. R75, R171, R172: the step of an idle core on each kind of host access, by what the access reaches. -/
namespace Sys2Proof.Machine

section
variable {s : State} {off width : Nat} {rest : List HostAction}

/-- R171: a write that reaches anything but CMD. -/
theorem step_of_write (v : W64) (tgt : Target) (hidle : s.phase = .idle)
    (hinputs : s.inputs = .write (s.params.base + off) width v :: rest) (hreach : locate off width = some tgt)
    (hcmd : tgt ≠ .reg .cmd) : step s = .next (tick (hostWrite tgt v { s with inputs := rest })) := by
  have hevent : hostEvent s (.write (s.params.base + off) width v) = .write tgt v := by
    simp only [hostEvent, locateAt_base_add, hreach]
  rw [step_of_idle s _ rest hidle hinputs, hevent]
  rfl

theorem hostEvent_of_read (tgt : Target) (hreach : locate off width = some tgt) :
    hostEvent s (.read (s.params.base + off) width) = .read (s.params.base + off) width tgt := by
  simp only [hostEvent, locateAt_base_add, hreach]

/-- R172: a read that has a value. -/
theorem step_of_read (v : W64) (tgt : Target) (hidle : s.phase = .idle)
    (hinputs : s.inputs = .read (s.params.base + off) width :: rest) (hreach : locate off width = some tgt)
    (hv : readTarget s tgt = some v) :
    step s = .next { s with
      reads := s.reads ++ [⟨s.params.base + off, width, v⟩], inputs := rest, moment := s.moment + 1 } := by
  rw [step_of_idle s _ rest hidle hinputs, hostEvent_of_read tgt hreach, stepEvent, hostRead, readTarget_inputs, hv]
  rfl

/-- R140, R172: a read that has none. -/
theorem step_of_read_without_value (tgt : Target) (hidle : s.phase = .idle)
    (hinputs : s.inputs = .read (s.params.base + off) width :: rest) (hreach : locate off width = some tgt)
    (hv : readTarget s tgt = none) : step s = .refused (readRefusal tgt) := by
  rw [step_of_idle s _ rest hidle hinputs, hostEvent_of_read tgt hreach, stepEvent, hostRead, readTarget_inputs, hv]
  rfl

/-- R75: an access, read or write, that reaches nothing. -/
theorem step_of_bad_access (addr : Nat) (v : W64) (hidle : s.phase = .idle)
    (hinputs : s.inputs = .read addr width :: rest ∨ s.inputs = .write addr width v :: rest)
    (hreach : locateAt s addr width = none) : step s = .refused .badAccess := by
  rcases hinputs with hinputs | hinputs
  · have hevent : hostEvent s (.read addr width) = .refuse .badAccess := by simp only [hostEvent, hreach]
    rw [step_of_idle s _ rest hidle hinputs, hevent]
    rfl
  · have hevent : hostEvent s (.write addr width v) = .refuse .badAccess := by simp only [hostEvent, hreach]
    rw [step_of_idle s _ rest hidle hinputs, hevent]
    rfl
end

/-- R171: a write of an operand register, at its offset and width. -/
theorem step_of_operand_write (s : State) (r : OperandReg) (v : W64) (rest : List HostAction) (hidle : s.phase = .idle)
    (hinputs : s.inputs =
      .write (s.params.base + regOffset (operandPort r)) (regWidth (operandPort r)) v :: rest) :
    step s = .next (tick (writeOperand r v { s with inputs := rest })) := by
  have hcmd : Target.reg (operandPort r) ≠ .reg .cmd := by cases r <;> decide
  rw [step_of_write v _ hidle hinputs (locate_reg _) hcmd, hostWrite_reg]

/-- Settles O40: the write of each register, spelled out. -/
theorem hostWritesAnOperandRegister : Obligations.HostWritesAnOperandRegister :=
  fun s v rest hidle =>
    ⟨step_of_operand_write s .seed v rest hidle, step_of_operand_write s .idata v rest hidle,
      step_of_operand_write s .offset v rest hidle, step_of_operand_write s .length v rest hidle,
      step_of_operand_write s .buflen v rest hidle⟩

theorem locate_digest_of_le (off : Nat) (h : 0x30 ≤ off ∧ off ≤ 0x3F) :
    locate off 8 = some (.digest (off - 0x30)) := by
  have hreach := locate_digest (off - 0x30) (by omega)
  rwa [Nat.add_sub_cancel' h.1] at hreach

theorem locate_hex_of_le (off : Nat) (h : 0x60 ≤ off ∧ off ≤ 0x7F) : locate off 8 = some (.hex (off - 0x60)) := by
  have hreach := locate_hex (off - 0x60) (by omega)
  rwa [Nat.add_sub_cancel' h.1] at hreach

theorem mem_reservedWidths (width : Nat) (h : width ∈ [8, 16, 32, 64]) :
    width = 8 ∨ width = 16 ∨ width = 32 ∨ width = 64 := by
  simpa using h

/-- R75, R171: each of the places where a write is ignored. -/
theorem locate_ignored (off width : Nat)
    (h : (off ∈ [0x04, 0x40, 0x50] ∧ width = 32) ∨ (off = 0x48 ∧ width = 64) ∨
      (0x30 ≤ off ∧ off ≤ 0x3F ∧ width = 8) ∨ (0x60 ≤ off ∧ off ≤ 0x7F ∧ width = 8) ∨
      (width ∈ [8, 16, 32, 64] ∧ ((0x54 ≤ off ∧ off + width / 8 ≤ 0x60) ∨ 0x80 ≤ off))) :
    ∃ tgt, locate off width = some tgt ∧ tgt ≠ .reg .cmd ∧ ∀ v s, hostWrite tgt v s = s := by
  rcases h with ⟨hoff, rfl⟩ | ⟨rfl, rfl⟩ | ⟨hlo, hhi, rfl⟩ | ⟨hlo, hhi, rfl⟩ | ⟨hwidth, hoff⟩
  · simp only [List.mem_cons, List.not_mem_nil, or_false] at hoff
    rcases hoff with rfl | rfl | rfl
    · exact ⟨_, locate_reg .status, by decide, fun _ _ => rfl⟩
    · exact ⟨_, locate_reg .view32, by decide, fun _ _ => rfl⟩
    · exact ⟨_, locate_reg .bitwidth, by decide, fun _ _ => rfl⟩
  · exact ⟨_, locate_reg .view64, by decide, fun _ _ => rfl⟩
  · exact ⟨_, locate_digest_of_le off ⟨hlo, hhi⟩, by simp, fun _ _ => rfl⟩
  · exact ⟨_, locate_hex_of_le off ⟨hlo, hhi⟩, by simp, fun _ _ => rfl⟩
  · exact ⟨_, locate_reserved off width (mem_reservedWidths width hwidth) hoff, by simp, fun _ _ => rfl⟩

/-- Settles O41: what the write reaches is none of the operand registers and not CMD. -/
theorem hostWritesElsewhereAreIgnored : Obligations.HostWritesElsewhereAreIgnored := by
  intro s v rest off width hidle hinputs hplace
  obtain ⟨tgt, hreach, hcmd, hignored⟩ := locate_ignored off width hplace
  rw [step_of_write v tgt hidle hinputs hreach hcmd, hignored]
  rfl

/-- R171: a write of an INBUF byte is the event of its cell, where there is one. -/
theorem step_of_buf (s : State) (i : Nat) (b : Byte) (rest : List HostAction) (hidle : s.phase = .idle)
    (hinputs : s.inputs = .buf i b :: rest) (hi : i < s.params.inbufCap.val) :
    step s = .next (tick (writeInbuf i b { s with inputs := rest })) := by
  rw [step_of_idle s _ rest hidle hinputs, hostEvent, if_pos hi]
  rfl

/-- Settles O42: INBUF after the write is the store of the byte, read back by the laws of the memory. -/
theorem hostWritesAnInbufByte : Obligations.HostWritesAnInbufByte := by
  refine fun s i b rest hidle hinputs => ⟨fun hi => ?inside, fun hi => ?outside⟩
  case inside =>
    exact ⟨_, step_of_buf s i b rest hidle hinputs hi, Memory.lookup_store_same _ _ _,
      fun j hj => Memory.lookup_store_other _ _ _ _ hj⟩
  case outside =>
    rw [step_of_idle s _ rest hidle hinputs, hostEvent, if_neg (Nat.not_lt.2 hi)]
    rfl

/-- R172: an operand register the host has written reads as its content. -/
theorem readTarget_written_operand (s : State) (r : OperandReg) (h : isWritten s r = true) :
    readTarget s (.reg (operandPort r)) = some (storedOperand s r) := by
  rw [← operand_of_written s r h]
  cases r <;> rfl

/-- Settles O43: each clause names what its offset and width reach, and the value of R172 there. -/
theorem hostReadsReturnTheValue : Obligations.HostReadsReturnTheValue := by
  intro s rest off width v hidle hinputs hvalue
  have hread := fun tgt => step_of_read v tgt hidle hinputs
  rcases hvalue with ⟨rfl, rfl, rfl⟩ | ⟨rfl, rfl, rfl⟩ | ⟨rfl, rfl, rfl⟩ | ⟨rfl, rfl, hw, rfl⟩ | ⟨rfl, rfl, hw, rfl⟩ |
    ⟨rfl, rfl, hw, rfl⟩ | ⟨rfl, rfl, hw, rfl⟩ | ⟨i, b, hi, rfl, rfl, hb, rfl⟩ | ⟨x, rfl, rfl, hx, rfl⟩ |
    ⟨rfl, rfl, hv⟩ | ⟨rfl, rfl, rfl⟩ | ⟨j, b, hj, rfl, rfl, hb, rfl⟩
  · exact hread _ (locate_reg .cmd) rfl
  · exact hread _ (locate_reg .status) rfl
  · exact hread _ (locate_reg .seed) (readTarget_written_operand s .seed rfl)
  · exact hread _ (locate_reg .idata) (readTarget_written_operand s .idata hw)
  · exact hread _ (locate_reg .offset) (readTarget_written_operand s .offset hw)
  · exact hread _ (locate_reg .length) (readTarget_written_operand s .length hw)
  · exact hread _ (locate_reg .buflen) (readTarget_written_operand s .buflen hw)
  · exact hread _ (locate_digest i hi) (by simp [readTarget, hb])
  · exact hread _ (locate_reg .view32) (by simp [readTarget, hx])
  · exact hread _ (locate_reg .view64) hv
  · exact hread _ (locate_reg .bitwidth) rfl
  · exact hread _ (locate_hex j hj) (by simp [readTarget, hb])

/-- Settles O44: whether written or not, an operand register reads as some value. -/
theorem hostReadsOfUnwrittenOperandsComplete : Obligations.HostReadsOfUnwrittenOperandsComplete := by
  intro s rest off hidle hoff hinputs
  simp only [List.mem_cons, List.not_mem_nil, or_false] at hoff
  rcases hoff with rfl | rfl | rfl | rfl
  · exact ⟨_, step_of_read _ _ hidle hinputs (locate_reg .idata) rfl⟩
  · exact ⟨_, step_of_read _ _ hidle hinputs (locate_reg .offset) rfl⟩
  · exact ⟨_, step_of_read _ _ hidle hinputs (locate_reg .length) rfl⟩
  · exact ⟨_, step_of_read _ _ hidle hinputs (locate_reg .buflen) rfl⟩

theorem readTarget_views_of_no_result (s : State) (h : s.dlen = .none) :
    readTarget s (.reg .view32) = none ∧ readTarget s (.reg .view64) = none := by
  simp [readTarget, view32, view64, h]

/-- Settles O45: DLEN decides which views, bytes and characters have no value; a reserved place never has one. -/
theorem hostReadsWithoutAValueAreRefused : Obligations.HostReadsWithoutAValueAreRefused := by
  intro s rest off width hidle hinputs
  have hrefused := fun tgt => step_of_read_without_value tgt hidle hinputs
  refine ⟨?noResult, ?reserved⟩
  case noResult =>
    rintro (⟨hlen, ⟨rfl, rfl⟩ | ⟨rfl, rfl⟩⟩ | ⟨i, hi, rfl, rfl, hlen⟩ | ⟨j, hj, rfl, rfl, hlen⟩)
    · exact hrefused _ (locate_reg .view32) (readTarget_views_of_no_result s hlen).1
    · exact hrefused _ (locate_reg .view64) (readTarget_views_of_no_result s hlen).2
    · exact hrefused _ (locate_digest i hi) (by simp [readTarget, (digestView_eq_none_iff s i).mpr hlen])
    · exact hrefused _ (locate_hex j hj) (by simp [readTarget, (hexView_eq_none_iff s j).mpr hlen])
  case reserved =>
    rintro ⟨hwidth, hoff⟩
    exact hrefused _ (locate_reserved off width (mem_reservedWidths width hwidth) hoff) rfl

/-- The ten pairs of offset and width are those of the registers. -/
theorem regOffset_regWidth_mem (r : Reg) :
    (regOffset r, regWidth r) ∈ [(0x00, 32), (0x04, 32), (0x08, 64), (0x10, 64), (0x18, 64), (0x20, 64), (0x28, 64),
      (0x40, 32), (0x48, 64), (0x50, 32)] := by
  cases r <;> decide

/-- R75: an access that is none of the four kinds reaches nothing. -/
theorem locate_eq_none (off width : Nat)
    (hreg : (off, width) ∉ [(0x00, 32), (0x04, 32), (0x08, 64), (0x10, 64), (0x18, 64), (0x20, 64), (0x28, 64),
      (0x40, 32), (0x48, 64), (0x50, 32)])
    (hdigest : ¬ (0x30 ≤ off ∧ off ≤ 0x3F ∧ width = 8)) (hhex : ¬ (0x60 ≤ off ∧ off ≤ 0x7F ∧ width = 8))
    (hreserved : ¬ (width ∈ [8, 16, 32, 64] ∧ ((0x54 ≤ off ∧ off + width / 8 ≤ 0x60) ∨ 0x80 ≤ off))) :
    locate off width = none := by
  cases hreach : locate off width with
  | none => rfl
  | some tgt =>
    exfalso
    obtain ⟨r, -, rfl, rfl⟩ | ⟨i, -, hi, hoff, hwidth⟩ | ⟨j, -, hj, hoff, hwidth⟩ | ⟨-, hwidth, hoff⟩ :=
      locate_eq_some off width tgt hreach
    · exact hreg (regOffset_regWidth_mem r)
    · exact hdigest ⟨by omega, by omega, hwidth⟩
    · exact hhex ⟨by omega, by omega, hwidth⟩
    · exact hreserved ⟨by simpa using hwidth, hoff⟩

/-- Settles O46: `locate` answers for four kinds of access only, and for none below BASE. -/
theorem accessesOfTheWrongWidthAreRefused : Obligations.AccessesOfTheWrongWidthAreRefused := by
  refine fun s rest width v hidle =>
    ⟨fun off hreg hdigest hhex hreserved hinputs => ?wrong, fun addr hbelow hinputs => ?below⟩
  case wrong =>
    refine step_of_bad_access _ v hidle hinputs ?_
    rw [locateAt_base_add, locate_eq_none off width hreg hdigest hhex hreserved]
  case below => exact step_of_bad_access addr v hidle hinputs (locateAt_below_base s addr width hbelow)

end Sys2Proof.Machine
end

section
/-! SUPPORT. R39, R210: the reset state and the reset event. -/
namespace Sys2Proof.Machine

/-- R210: a reset that stands first and is due is the next step. -/
theorem step_of_reset (s : State) (n : Nat) (rest : List HostAction) (hinputs : s.inputs = .reset n :: rest)
    (hdue : s.phase = .idle ∨ n = 0) : step s = .next (tick (resetEvent { s with inputs := rest })) := by
  by_cases hidle : s.phase = .idle
  · rw [step_of_idle s _ rest hidle hinputs]
    rfl
  · obtain rfl := hdue.resolve_left hidle
    have hevent : nextEvent s = .reset := by simp [nextEvent, hidle, hinputs, resetDue]
    have hconsume : consume s = { s with inputs := rest } := by rw [consume, inputsAfter, if_neg hidle, hinputs]
    rw [step, hevent, hconsume]
    rfl

/-- Settles O47: the state after the step is the reset state, but for the parameters and the host's own lists. -/
theorem resetEventResets : Obligations.ResetEventResets :=
  fun s n rest hinputs hdue =>
    ⟨_, step_of_reset s n rest hinputs hdue, rfl, rfl, rfl, rfl, rfl, fun _ => rfl, rfl, rfl, rfl⟩

/-- Settles O48: SEED is the one register whose reset value the rule names. -/
theorem resetStateIsAsStated : Obligations.ResetStateIsAsStated := by
  refine ⟨rfl, rfl, rfl, rfl, fun r => ?written, fun _ => rfl⟩
  case written => cases r <;> decide

end Sys2Proof.Machine
end

section
/-! SUPPORT. R27, R93: how the invariant is established, in an idle core and in a busy one. -/
namespace Sys2Proof.Machine

/-- In an idle core the invariant is that of INBUF and of STATUS. -/
theorem inv_of_idle (s : State) (hidle : s.phase = .idle) (hsorted : Memory.wf s.inbuf)
    (hinside : ∀ c ∈ s.inbuf, c.1 < s.params.inbufCap.val) (hlegal : StatusLegal s) : Inv s where
  inbufSorted := hsorted
  inbufInside := hinside
  outcomeIdle _ := hlegal
  outcomeBusy hbusy := absurd hidle hbusy
  window hbusy _ := absurd hidle hbusy
  phaseLegal := by simp [PhaseLegal, hidle]

section
variable {s t : State}

theorem Inv.idle_of_keepsOperands (hi : Inv s) (hk : KeepsOperands s t) (hidle : t.phase = .idle)
    (hlegal : StatusLegal t) : Inv t :=
  inv_of_idle t hidle (hk.inbuf ▸ hi.inbufSorted) (by rw [hk.inbuf, hk.params]; exact hi.inbufInside) hlegal

/-- While a command runs, STATUS and DLEN are clear and R93 and R161 hold. -/
theorem Inv.busy_of_keepsOperands (hi : Inv s) (hk : KeepsOperands s t) (hbusy : t.phase ≠ .idle)
    (hclear : t.status = 0x00 ∧ t.dlen = .none) (hwindow : t.phase ≠ .check → Window t) (hlegal : PhaseLegal t) :
    Inv t where
  inbufSorted := hk.inbuf ▸ hi.inbufSorted
  inbufInside := by rw [hk.inbuf, hk.params]; exact hi.inbufInside
  outcomeIdle hidle := absurd hidle hbusy
  outcomeBusy _ := hclear
  window _ := hwindow
  phaseLegal := hlegal

/-- The invariant does not speak of the model's own fields. -/
theorem Inv.with_model_side (hi : Inv s) (m : Nat) (as : List HostAction) (rs : List ReadRecord) :
    Inv { s with moment := m, inputs := as, reads := rs } := by
  obtain ⟨hsorted, hinside, hidle, hbusy, hwindow, hphase⟩ := hi
  refine ⟨hsorted, hinside, hidle, hbusy, fun hb hc => ?_, hphase⟩
  obtain ⟨hrem, hsource, h32, h64, hoffset, hlength, hbuflen⟩ := hwindow hb hc
  exact ⟨hrem, hsource, h32, h64, hoffset, hlength, hbuflen⟩

theorem Inv.tick (hi : Inv s) : Inv (tick s) := hi.with_model_side _ _ _

theorem Inv.consume (hi : Inv s) : Inv (consume s) := hi.with_model_side _ _ _

/-- R39: the hardware at its reset values, whatever the parameters. -/
theorem inv_of_reset_values (hidle : t.phase = .idle) (hinbuf : t.inbuf = []) (hstatus : t.status = 0)
    (hdlen : t.dlen = .none) : Inv t :=
  inv_of_idle t hidle (hinbuf ▸ List.Pairwise.nil) (by simp [hinbuf]) (.inl ⟨hstatus, hdlen⟩)
end

/-- Settles O49: an idle core with an empty INBUF and no outcome. -/
theorem invariantAtReset : Obligations.InvariantAtReset := inv_of_reset_values rfl rfl rfl rfl

end Sys2Proof.Machine
end

section
/-! SUPPORT. R87, R93: the window `LEBD.CHECK` opens, and how a micro-operation that uses up source bytes keeps it. -/
namespace Sys2Proof.Machine

theorem sourceEnd_lt (s : State) : sourceEnd s < 2 ^ 63 := by
  unfold sourceEnd
  cases s.src with
  | bytes => exact s.params.inbufCap.isLt
  | i32 | i64 => simp

/-- R86, R93: a range that RangeOK passes lies inside BUFLEN and INBUF. -/
theorem window_of_checkOk (s : State) (hsrc : s.src = .bytes) (hok : checkOk s = true) :
    Window (setWindow (operand s .offset) (operand s .length) s) := by
  obtain ⟨ho, hl, hend, hcap⟩ := (checkOk_iff s).mp hok
  obtain ⟨hoInt, -⟩ := toNat_eq_toInt_of_nonneg _ ho
  obtain ⟨hlInt, -⟩ := toNat_eq_toInt_of_nonneg _ hl
  have hbuflen : (operand s .offset).toNat + (operand s .length).toNat ≤ (operand s .buflen).toNat := by omega
  refine ⟨Nat.le_refl _, ?inSource, fun h => ?i32, fun h => ?i64, fun _ hw => ?offset, fun _ hw => ?length,
    fun _ hw => ?buflen⟩
  case inSource =>
    simp only [sourceEnd, setWindow_src, hsrc]
    exact hbuflen.trans hcap
  case i32 => exact absurd (hsrc.symm.trans h) (by decide)
  case i64 => exact absurd (hsrc.symm.trans h) (by decide)
  case offset => exact congrArg (·.toNat + _) (operand_of_written s .offset hw)
  case length => exact operand_of_written s .length hw
  case buflen => exact hbuflen.trans_eq (congrArg BitVec.toNat (operand_of_written s .buflen hw))

/-- R47, R93: the window of an integer form is all of IBYTES that the form has. -/
theorem window_of_integer (s : State) (n : W64)
    (h : s.src = .i32 ∧ n = 4 ∨ s.src = .i64 ∧ n = 8) : Window (setWindow 0 n s) := by
  rcases h with ⟨hsrc, rfl⟩ | ⟨hsrc, rfl⟩
  · constructor <;> simp [sourceEnd, hsrc]
  · constructor <;> simp [sourceEnd, hsrc]

/-- R87: `LEBD.CHECK` opens a window of R93, or takes the error entry. -/
theorem execLebdCheck_window (s t : State) (v : Variant) (h : execLebdCheck v s = .next t) :
    (∃ p l, t = setWindow p l s ∧ Window t) ∨ t = raiseError .boundsViolation s := by
  cases hsrc : s.src with
  | bytes =>
    by_cases hok : checkOk s = true
    · cases (execLebdCheck_bytes_of_ok s v hsrc hok).symm.trans h
      exact .inl ⟨_, _, rfl, window_of_checkOk s hsrc hok⟩
    · cases (execLebdCheck_bytes_of_not_ok s v hsrc hok).symm.trans h
      exact .inr rfl
  | i32 =>
    cases ((checkOfAnIntegerSource s v).1 hsrc).symm.trans h
    exact .inl ⟨0, 4, rfl, window_of_integer s 4 (.inl ⟨hsrc, rfl⟩)⟩
  | i64 =>
    cases ((checkOfAnIntegerSource s v).2 hsrc).symm.trans h
    exact .inl ⟨0, 8, rfl, window_of_integer s 8 (.inr ⟨hsrc, rfl⟩)⟩

/-- R91: t is s after a micro-operation of a mixer that used up n source bytes, the accumulators and PHASE left open. -/
structure UsesUp (n : Nat) (s t : State) : Prop where
  pos : t.pos = s.pos + BitVec.ofNat 64 n
  rem : t.rem = s.rem - BitVec.ofNat 64 n
  len : t.len = s.len
  var : t.var = s.var
  src : t.src = s.src
  result : KeepsResult s t
  operands : KeepsOperands s t

/-- Everything but the window is in the frame of the mixers. -/
theorem usesUp_of_mixer {i : Instr} {s t : State} {n : Nat} (hi : i ∈ mixers32 ∨ i ∈ mixers128)
    (h : exec i s = .next t) (hpos : t.pos = s.pos + BitVec.ofNat 64 n) (hrem : t.rem = s.rem - BitVec.ofNat 64 n) :
    UsesUp n s t := by
  obtain ⟨-, -, hframe32, hframe128, -, -⟩ := framesByGroup i s t h
  have hkeeps := (noInstructionWritesOperandsOrInbuf i s t h).1
  rcases hi with hi | hi
  · obtain ⟨-, -, hlen, hvar, hsrc, hresult⟩ := hframe32 hi
    exact ⟨hpos, hrem, hlen, hvar, hsrc, hresult, hkeeps⟩
  · obtain ⟨-, hlen, hvar, hsrc, hresult⟩ := hframe128 hi
    exact ⟨hpos, hrem, hlen, hvar, hsrc, hresult, hkeeps⟩

section
variable {s t : State} {n : Nat}

theorem UsesUp.rem_toNat (hu : UsesUp n s t) (hn : n ≤ s.rem.toNat) : t.rem.toNat = s.rem.toNat - n := by
  rw [hu.rem, rem_sub_toNat _ _ hn]

/-- R93: the end of the window does not move. -/
theorem UsesUp.window_end (hu : UsesUp n s t) (hn : n ≤ s.rem.toNat) (hw : Window s) :
    t.pos.toNat + t.rem.toNat = s.pos.toNat + s.rem.toNat := by
  have hend := hw.inSource
  have hlt := sourceEnd_lt s
  have hpos : t.pos.toNat = s.pos.toNat + n := by
    rw [hu.pos, BitVec.toNat_add, BitVec.toNat_ofNat]
    omega
  rw [hu.rem_toNat hn]
  omega

/-- R93: the window stays one when bytes of it are used up. -/
theorem UsesUp.window (hu : UsesUp n s t) (hn : n ≤ s.rem.toNat) (hw : Window s) : Window t := by
  have hend := hu.window_end hn hw
  have hrem := hu.rem_toNat hn
  obtain ⟨hlen, hsource, h32, h64, hoffset, hlength, hbuflen⟩ := hw
  have hk := hu.operands
  have hsourceEnd : sourceEnd t = sourceEnd s := by rw [sourceEnd, sourceEnd, hu.src, hk.params]
  constructor
  case remLeLen => rw [hrem, hu.len]; omega
  case inSource => rwa [hend, hsourceEnd]
  case ofI32 => rwa [hu.src, hu.len, hend]
  case ofI64 => rwa [hu.src, hu.len, hend]
  case ofOffset => rwa [hu.src, hk.written, hk.offset, hu.len, hend]
  case ofLength => rwa [hu.src, hk.written, hk.length, hu.len]
  case ofBuflen => rwa [hu.src, hk.written, hk.buflen, hend]

/-- What PHASE says about REM after INIT and BLOCK, which choose it on REM. -/
theorem phaseLegal_of_bodyOrTail (hphase : t.phase = bodyOrTail t.var t.rem)
    (hblocks : (t.len.toNat - t.rem.toNat) % blockSize t.var = 0) : PhaseLegal t := by
  by_cases hbody : blockSize t.var ≤ t.rem.toNat
  · rw [bodyOrTail_body _ _ hbody] at hphase
    simpa only [PhaseLegal, hphase] using ⟨hbody, hblocks⟩
  · rw [bodyOrTail_tail _ _ (Nat.lt_of_not_le hbody)] at hphase
    simpa only [PhaseLegal, hphase] using ⟨Nat.lt_of_not_le hbody, hblocks⟩

/-- A micro-operation of a mixer keeps the invariant where what its PHASE says about REM holds. -/
theorem UsesUp.inv (hu : UsesUp n s t) (hi : Inv s) (hn : n ≤ s.rem.toNat) (hbusy : s.phase ≠ .idle)
    (hcheck : s.phase ≠ .check) (htbusy : t.phase ≠ .idle) (hlegal : PhaseLegal t) : Inv t := by
  obtain ⟨hstatus, hdlen⟩ := hi.outcomeBusy hbusy
  obtain ⟨hkstatus, hkdlen, -⟩ := hu.result
  exact hi.busy_of_keepsOperands hu.operands htbusy ⟨hkstatus.trans hstatus, hkdlen.trans hdlen⟩
    (fun _ => hu.window hn (hi.window hbusy hcheck)) hlegal
end

end Sys2Proof.Machine
end

section
/-! SUPPORT. R161: each micro-operation that the phases of a command run keeps the invariant. -/
namespace Sys2Proof.Machine

section
variable {s t : State} {i : Instr}

theorem bodyOrTail_ne_idle (v : Variant) (rem : W64) : bodyOrTail v rem ≠ .idle := by
  unfold bodyOrTail
  split <;> decide

/-- R71: the instruction of a phase, one for each variant. -/
theorem instr_of_uopCode {p : Phase} {a b : Instr} (ha : decode (.uop (uopWord .x86_32 p.code)) = .instr a)
    (hb : decode (.uop (uopWord .x64_128 p.code)) = .instr b) (hphase : s.phase = p)
    (hdecode : decode (.uop (uopCode s)) = .instr i) : s.var = .x86_32 ∧ i = a ∨ s.var = .x64_128 ∧ i = b := by
  rw [uopCode, hphase] at hdecode
  cases hvar : s.var with
  | x86_32 => exact .inl ⟨rfl, Decoded.instr.inj (hdecode.symm.trans (hvar ▸ ha))⟩
  | x64_128 => exact .inr ⟨rfl, Decoded.instr.inj (hdecode.symm.trans (hvar ▸ hb))⟩

/-- R104, R124: INIT uses up nothing and chooses PHASE on the REM it leaves. -/
theorem usesUp_of_init (hphase : s.phase = .init) (hdecode : decode (.uop (uopCode s)) = .instr i)
    (h : exec i s = .next t) : UsesUp 0 s t ∧ t.phase = bodyOrTail t.var t.rem := by
  obtain ⟨hvar, rfl⟩ | ⟨hvar, rfl⟩ :=
    instr_of_uopCode (decode_uopWord .x86_32 .init) (decode_uopWord .x64_128 .init) hphase hdecode
  · cases h
    exact ⟨usesUp_of_mixer (i := .m32Init) (.inl (by decide)) rfl (by simp) (by simp), by simp [hvar]⟩
  · cases h
    exact ⟨usesUp_of_mixer (i := .m128Init) (.inr (by decide)) rfl (by simp) (by simp), by simp [hvar]⟩

/-- R105, R125: BLOCK uses up a block and chooses PHASE on the REM it leaves. -/
theorem usesUp_of_block (hphase : s.phase = .body) (hdecode : decode (.uop (uopCode s)) = .instr i)
    (h : exec i s = .next t) : UsesUp (blockSize s.var) s t ∧ t.phase = bodyOrTail t.var t.rem := by
  obtain ⟨hvar, rfl⟩ | ⟨hvar, rfl⟩ :=
    instr_of_uopCode (decode_uopWord .x86_32 .body) (decode_uopWord .x64_128 .body) hphase hdecode
  · obtain ⟨k, -, ht⟩ := execM32Block_eq_next s t h
    rw [hvar]
    exact ⟨usesUp_of_mixer (.inl (by decide)) h (by rw [ht]; rfl) (by rw [ht]; rfl), by rw [ht, hvar]⟩
  · obtain ⟨k1, k2, -, -, ht⟩ := execM128Block_eq_next s t h
    rw [hvar]
    exact ⟨usesUp_of_mixer (.inr (by decide)) h (by rw [ht]; rfl) (by rw [ht]; rfl), by rw [ht, hvar]⟩

/-- R106, R126: TAIL uses up all that remains. -/
theorem usesUp_of_tail (hphase : s.phase = .tail) (hdecode : decode (.uop (uopCode s)) = .instr i)
    (h : exec i s = .next t) : UsesUp s.rem.toNat s t ∧ t.phase = .final := by
  obtain ⟨-, rfl⟩ | ⟨-, rfl⟩ :=
    instr_of_uopCode (decode_uopWord .x86_32 .tail) (decode_uopWord .x64_128 .tail) hphase hdecode
  · obtain ⟨-, k, -, ht⟩ := execM32Tail_eq_next s t h
    exact ⟨usesUp_of_mixer (.inl (by decide)) h (by rw [ht]; simp) (by rw [ht]; simp), by rw [ht]⟩
  · obtain ⟨-, k1, k2, -, -, ht⟩ := execM128Tail_eq_next s t h
    exact ⟨usesUp_of_mixer (.inr (by decide)) h (by rw [ht]; simp) (by rw [ht]; simp), by rw [ht]⟩

/-- R107, R127: FINAL uses up nothing. -/
theorem usesUp_of_final (hphase : s.phase = .final) (hdecode : decode (.uop (uopCode s)) = .instr i)
    (h : exec i s = .next t) : UsesUp 0 s t ∧ t.phase = .pack := by
  obtain ⟨-, rfl⟩ | ⟨-, rfl⟩ :=
    instr_of_uopCode (decode_uopWord .x86_32 .final) (decode_uopWord .x64_128 .final) hphase hdecode
  · cases h
    exact ⟨usesUp_of_mixer (i := .m32Final) (.inl (by decide)) rfl (by simp) (by simp), rfl⟩
  · cases h
    exact ⟨usesUp_of_mixer (i := .m128Final) (.inr (by decide)) rfl (by simp) (by simp), rfl⟩

theorem execLebdCheck_inv (hi : Inv s) (hphase : s.phase = .check) (v : Variant) (h : execLebdCheck v s = .next t) :
    Inv t := by
  have hkeeps := (noInstructionWritesOperandsOrInbuf (.lebdCheck v) s t h).1
  obtain ⟨p, l, rfl, hwindow⟩ | rfl := execLebdCheck_window s t v h
  · exact hi.busy_of_keepsOperands hkeeps (by simp) (hi.outcomeBusy (by simp [hphase])) (fun _ => hwindow) rfl
  · exact hi.idle_of_keepsOperands hkeeps rfl (.inr (.inr (.inr (.inl ⟨rfl, rfl⟩))))

theorem init_inv (hi : Inv s) (hphase : s.phase = .init) (hdecode : decode (.uop (uopCode s)) = .instr i)
    (h : exec i s = .next t) : Inv t := by
  obtain ⟨hu, ht⟩ := usesUp_of_init hphase hdecode h
  have hrem : s.rem = s.len := by simpa only [PhaseLegal, hphase] using hi.phaseLegal
  have hblocks : (t.len.toNat - t.rem.toNat) % blockSize t.var = 0 := by
    rw [hu.rem_toNat (Nat.zero_le _), hu.len, hrem]
    simp
  exact hu.inv hi (Nat.zero_le _) (by simp [hphase]) (by simp [hphase]) (ht ▸ bodyOrTail_ne_idle _ _)
    (phaseLegal_of_bodyOrTail ht hblocks)

theorem block_inv (hi : Inv s) (hphase : s.phase = .body) (hdecode : decode (.uop (uopCode s)) = .instr i)
    (h : exec i s = .next t) : Inv t := by
  obtain ⟨hu, ht⟩ := usesUp_of_block hphase hdecode h
  obtain ⟨hn, hmod⟩ : blockSize s.var ≤ s.rem.toNat ∧ (s.len.toNat - s.rem.toNat) % blockSize s.var = 0 := by
    simpa only [PhaseLegal, hphase] using hi.phaseLegal
  have hle := (hi.window (by simp [hphase]) (by simp [hphase])).remLeLen
  have hblocks : (t.len.toNat - t.rem.toNat) % blockSize t.var = 0 := by
    have hone : s.len.toNat - (s.rem.toNat - blockSize s.var) = s.len.toNat - s.rem.toNat + blockSize s.var := by omega
    rw [hu.rem_toNat hn, hu.len, hu.var, hone, Nat.add_mod_right, hmod]
  exact hu.inv hi hn (by simp [hphase]) (by simp [hphase]) (ht ▸ bodyOrTail_ne_idle _ _)
    (phaseLegal_of_bodyOrTail ht hblocks)

theorem tail_inv (hi : Inv s) (hphase : s.phase = .tail) (hdecode : decode (.uop (uopCode s)) = .instr i)
    (h : exec i s = .next t) : Inv t := by
  obtain ⟨hu, ht⟩ := usesUp_of_tail hphase hdecode h
  have hrem : t.rem = 0 := by simp [hu.rem]
  exact hu.inv hi (Nat.le_refl _) (by simp [hphase]) (by simp [hphase]) (by simp [ht])
    (by simpa only [PhaseLegal, ht] using hrem)

theorem final_inv (hi : Inv s) (hphase : s.phase = .final) (hdecode : decode (.uop (uopCode s)) = .instr i)
    (h : exec i s = .next t) : Inv t := by
  obtain ⟨hu, ht⟩ := usesUp_of_final hphase hdecode h
  have hzero : s.rem = 0 := by simpa only [PhaseLegal, hphase] using hi.phaseLegal
  have hrem : t.rem = 0 := by simp [hu.rem, hzero]
  exact hu.inv hi (Nat.zero_le _) (by simp [hphase]) (by simp [hphase]) (by simp [ht])
    (by simpa only [PhaseLegal, ht] using hrem)

theorem pack_inv (hi : Inv s) (hphase : s.phase = .pack) (hdecode : decode (.uop (uopCode s)) = .instr i)
    (h : exec i s = .next t) : Inv t := by
  have hkeeps := (noInstructionWritesOperandsOrInbuf i s t h).1
  obtain ⟨-, rfl⟩ | ⟨-, rfl⟩ :=
    instr_of_uopCode (decode_uopWord .x86_32 .pack) (decode_uopWord .x64_128 .pack) hphase hdecode
  · cases h
    exact hi.idle_of_keepsOperands hkeeps rfl (.inr (.inl ⟨rfl, rfl⟩))
  · cases h
    exact hi.idle_of_keepsOperands hkeeps rfl (.inr (.inr (.inl ⟨rfl, rfl⟩)))

/-- The micro-operation a busy core runs keeps the invariant. -/
theorem exec_micro_inv (hi : Inv s) (hdecode : decode (.uop (uopCode s)) = .instr i) (h : exec i s = .next t) :
    Inv t := by
  cases hphase : s.phase with
  | idle =>
    rw [uopCode, decode_uopWord, hphase] at hdecode
    cases hdecode
  | check =>
    rw [uopCode, decode_uopWord, hphase] at hdecode
    cases hdecode
    exact execLebdCheck_inv hi hphase s.var h
  | init => exact init_inv hi hphase hdecode h
  | body => exact block_inv hi hphase hdecode h
  | tail => exact tail_inv hi hphase hdecode h
  | final => exact final_inv hi hphase hdecode h
  | pack => exact pack_inv hi hphase hdecode h

/-- Acceptance of a command keeps the invariant: the outcome is discarded, and no window is open yet. -/
theorem command_inv (hi : Inv s) (v : Variant) (src : Source) (h : exec (commandOf v src) s = .next t) : Inv t := by
  have hkeeps := (noInstructionWritesOperandsOrInbuf _ s t h).1
  obtain ⟨-, rfl⟩ := exec_command_eq_next v src h
  exact hi.busy_of_keepsOperands hkeeps (by simp) ⟨rfl, rfl⟩ (fun hcheck => absurd rfl hcheck) trivial

/-- A word written to CMD keeps the invariant, a command or not. -/
theorem runCode_cmd_inv (hi : Inv s) (w : W32) (h : runCode (.cmd w) s = .next t) : Inv t := by
  cases hd : decode (.cmd w) with
  | instr i =>
    rw [runCode_of_decode _ i s hd] at h
    obtain ⟨v, src, rfl, -, -, -⟩ := (decode_cmd_eq_instr_iff w i).mp hd
    exact command_inv hi v src h
  | reject r =>
    rw [runCode_of_reject _ r s hd] at h
    have hkeeps := undecoded_keepsOperands r s t h
    rw [reject_of_decode_cmd w r hd] at h
    cases h
    exact hi.idle_of_keepsOperands hkeeps rfl (.inr (.inr (.inr (.inr ⟨rfl, rfl⟩))))

theorem writeInbuf_inv (hi : Inv s) (hidle : s.phase = .idle) (j : Nat) (b : Byte) (hj : j < s.params.inbufCap.val) :
    Inv (writeInbuf j b s) := by
  refine inv_of_idle _ hidle (Memory.store_wf _ j b hi.inbufSorted) (fun c hc => ?inside) (hi.outcomeIdle hidle)
  case inside =>
    rcases Memory.mem_store _ j b c hc with rfl | hc
    · exact hj
    · exact hi.inbufInside c hc

theorem hostWrite_inv (hi : Inv s) (hidle : s.phase = .idle) (tgt : Target) (v : W64) : Inv (hostWrite tgt v s) := by
  obtain hw | ⟨r, hw⟩ := hostWrite_cases tgt v s
  · rwa [hw]
  · rw [hw]
    refine inv_of_idle _ (by simpa using hidle) (by simpa using hi.inbufSorted) (by simpa using hi.inbufInside) ?_
    simpa [StatusLegal] using hi.outcomeIdle hidle

/-- Every event that an idle core can meet keeps the invariant. -/
theorem stepEvent_idle_inv (hi : Inv s) (hidle : s.phase = .idle) (e : Event) (huop : ∀ c, e ≠ .instr (.uop c))
    (hbuf : ∀ j b, e = .buf j b → j < s.params.inbufCap.val) (h : stepEvent runCode e s = .next t) : Inv t := by
  cases e with
  | quiet =>
    cases h
    exact hi
  | reset =>
    cases h
    exact inv_of_reset_values rfl rfl rfl rfl
  | instr c =>
    cases c with
    | cmd w => exact runCode_cmd_inv hi w h
    | uop c => exact absurd rfl (huop c)
  | write tgt v =>
    cases h
    exact hostWrite_inv hi hidle tgt v
  | read addr width tgt =>
    obtain ⟨v, -, rfl⟩ := hostRead_eq_next addr width tgt s t h
    exact hi.with_model_side _ _ _
  | buf j b =>
    cases h
    exact writeInbuf_inv hi hidle j b (hbuf j b rfl)
  | refuse r => cases h

/-- R171: the host writes no INBUF byte at or above INBUF_CAP. -/
theorem hostEvent_eq_buf (a : HostAction) (j : Nat) (b : Byte) (h : hostEvent s a = .buf j b) :
    j < s.params.inbufCap.val := by
  cases a with
  | write addr width v =>
    simp only [hostEvent] at h
    split at h <;> cases h
  | read addr width =>
    simp only [hostEvent] at h
    split at h <;> cases h
  | buf k c =>
    simp only [hostEvent] at h
    split at h
    · next hk =>
      cases h
      exact hk
    · cases h
  | reset n => cases h

theorem hostEvent_ne_uop (a : HostAction) (c : BitVec 4) : hostEvent s a ≠ .instr (.uop c) := by
  intro h
  obtain ⟨_, _, _, -, -, hc⟩ := hostEvent_eq_instr s a _ h
  cases hc
end

/-- Settles O50: an idle core's events, a due reset, or the micro-operation of the phase, each on a state that differs
from s in the host's actions alone. -/
theorem everyStepKeepsTheInvariant : Obligations.EveryStepKeepsTheInvariant := by
  intro s t hi hstep
  obtain ⟨u, hu, rfl⟩ := step_eq_next s t hstep
  refine Inv.tick ?_
  obtain ⟨hidle, -, he⟩ | ⟨a, -, hidle, -, he⟩ | ⟨-, -, -, he⟩ | ⟨hbusy, -, he⟩ := nextEvent_cases s
  · rw [he] at hu
    exact stepEvent_idle_inv hi.consume hidle .quiet (by simp) (by simp) hu
  · rw [he] at hu
    exact stepEvent_idle_inv hi.consume hidle _ (hostEvent_ne_uop a) (fun j b hj => hostEvent_eq_buf a j b hj) hu
  · rw [he] at hu
    cases hu
    exact inv_of_reset_values rfl rfl rfl rfl
  · rw [he] at hu
    obtain ⟨i, hdecode⟩ := (exists_decode_uopWord_iff s.var s.phase).mpr hbusy
    exact exec_micro_inv hi.consume hdecode ((runCode_of_decode _ i _ hdecode).symm.trans hu)

end Sys2Proof.Machine
end

section
/-! SUPPORT. R93, R168, R205: inside the window every source byte exists, so no micro-operation of a run faults. -/
namespace Sys2Proof.Machine

section
variable {s : State} {i : Instr}

/-- R48: an integer's bytes are among the eight of IBYTES. -/
theorem sourceEnd_le_sourceSize (s : State) : sourceEnd s ≤ sourceSize s := by
  unfold sourceEnd sourceSize
  cases s.src <;> simp

/-- R93: a read inside the window has all its bytes. -/
theorem Window.memRead_exists (hw : Window s) (w p n : Nat)
    (h : ∀ j, j < n → p + j < s.pos.toNat + s.rem.toNat) : ∃ k, memRead w s p n = some k := by
  refine Option.ne_none_iff_exists'.mp fun hnone => ?_
  obtain ⟨j, hj, hbyte⟩ := (memRead_eq_none_iff w s p n).mp hnone
  have hmissing := (srcByte_eq_none_iff s (p + j)).mp hbyte
  have hend := hw.inSource.trans (sourceEnd_le_sourceSize s)
  have hin := h j hj
  omega

theorem block_next (hi : Inv s) (hphase : s.phase = .body) (hdecode : decode (.uop (uopCode s)) = .instr i) :
    ∃ t, exec i s = .next t := by
  have hw := hi.window (by simp [hphase]) (by simp [hphase])
  obtain ⟨hn, -⟩ : blockSize s.var ≤ s.rem.toNat ∧ (s.len.toNat - s.rem.toNat) % blockSize s.var = 0 := by
    simpa only [PhaseLegal, hphase] using hi.phaseLegal
  obtain ⟨hvar, rfl⟩ | ⟨hvar, rfl⟩ :=
    instr_of_uopCode (decode_uopWord .x86_32 .body) (decode_uopWord .x64_128 .body) hphase hdecode
  · rw [hvar, blockSize_x86_32] at hn
    obtain ⟨k, hk⟩ := hw.memRead_exists 32 s.pos.toNat 4 (fun j hj => by omega)
    obtain ⟨_, -, hnext⟩ := execM32Block_next s k hk
    exact ⟨_, hnext⟩
  · rw [hvar, blockSize_x64_128] at hn
    obtain ⟨k1, hk1⟩ := hw.memRead_exists 64 s.pos.toNat 8 (fun j hj => by omega)
    obtain ⟨k2, hk2⟩ := hw.memRead_exists 64 (s.pos.toNat + 8) 8 (fun j hj => by omega)
    obtain ⟨_, _, -, -, hnext⟩ := execM128Block_next s k1 k2 hk1 hk2
    exact ⟨_, hnext⟩

theorem tail_next (hi : Inv s) (hphase : s.phase = .tail) (hdecode : decode (.uop (uopCode s)) = .instr i) :
    ∃ t, exec i s = .next t := by
  have hw := hi.window (by simp [hphase]) (by simp [hphase])
  obtain ⟨hlt, -⟩ : s.rem.toNat < blockSize s.var ∧ (s.len.toNat - s.rem.toNat) % blockSize s.var = 0 := by
    simpa only [PhaseLegal, hphase] using hi.phaseLegal
  obtain ⟨hvar, rfl⟩ | ⟨hvar, rfl⟩ :=
    instr_of_uopCode (decode_uopWord .x86_32 .tail) (decode_uopWord .x64_128 .tail) hphase hdecode
  · rw [hvar, blockSize_x86_32] at hlt
    obtain ⟨k, hk⟩ := hw.memRead_exists 32 s.pos.toNat s.rem.toNat (fun j hj => by omega)
    obtain ⟨_, -, hnext⟩ := execM32Tail_next s k (by omega) hk
    exact ⟨_, hnext⟩
  · rw [hvar, blockSize_x64_128] at hlt
    obtain ⟨k1, hk1⟩ := hw.memRead_exists 64 s.pos.toNat (min s.rem.toNat 8) (fun j hj => by omega)
    obtain ⟨k2, hk2⟩ := hw.memRead_exists 64 (s.pos.toNat + 8) (s.rem.toNat - min s.rem.toNat 8) (fun j hj => by omega)
    obtain ⟨_, _, -, -, hnext⟩ := execM128Tail_next s k1 k2 (by omega) hk1 hk2
    exact ⟨_, hnext⟩

/-- R205: the micro-operation of a busy core in a state of the invariant answers a next state. -/
theorem exec_micro_next (hi : Inv s) (hdecode : decode (.uop (uopCode s)) = .instr i) : ∃ t, exec i s = .next t := by
  cases hphase : s.phase with
  | idle =>
    rw [uopCode, decode_uopWord, hphase] at hdecode
    cases hdecode
  | check =>
    rw [uopCode, decode_uopWord, hphase] at hdecode
    cases hdecode
    exact ⟨_, rfl⟩
  | body => exact block_next hi hphase hdecode
  | tail => exact tail_next hi hphase hdecode
  | init =>
    obtain ⟨-, rfl⟩ | ⟨-, rfl⟩ :=
      instr_of_uopCode (decode_uopWord .x86_32 .init) (decode_uopWord .x64_128 .init) hphase hdecode
    exacts [⟨_, rfl⟩, ⟨_, rfl⟩]
  | final =>
    obtain ⟨-, rfl⟩ | ⟨-, rfl⟩ :=
      instr_of_uopCode (decode_uopWord .x86_32 .final) (decode_uopWord .x64_128 .final) hphase hdecode
    exacts [⟨_, rfl⟩, ⟨_, rfl⟩]
  | pack =>
    obtain ⟨-, rfl⟩ | ⟨-, rfl⟩ :=
      instr_of_uopCode (decode_uopWord .x86_32 .pack) (decode_uopWord .x64_128 .pack) hphase hdecode
    exacts [⟨_, rfl⟩, ⟨_, rfl⟩]

theorem accept_ne_fault (v : Variant) (src : Source) (r : Fault) : accept v src s ≠ .fault r := by
  unfold accept
  split <;> simp

theorem runCode_cmd_ne_fault (w : W32) (r : Fault) : runCode (.cmd w) s ≠ .fault r := by
  cases hd : decode (.cmd w) with
  | instr i =>
    obtain ⟨v, src, rfl, -, -, -⟩ := (decode_cmd_eq_instr_iff w i).mp hd
    rw [runCode_of_decode _ _ s hd, exec_commandOf]
    exact accept_ne_fault v src r
  | reject q =>
    rw [runCode_of_reject _ q s hd, reject_of_decode_cmd w q hd]
    simp [undecoded]

/-- Only a micro-operation can fault. -/
theorem stepEvent_ne_fault (e : Event) (huop : ∀ c, e ≠ .instr (.uop c)) (r : Fault) :
    stepEvent runCode e s ≠ .fault r := by
  cases e with
  | instr c =>
    cases c with
    | cmd w => exact runCode_cmd_ne_fault w r
    | uop c => exact absurd rfl (huop c)
  | read addr width tgt =>
    simp only [stepEvent, hostRead]
    split <;> simp
  | quiet | reset | write _ _ | buf _ _ | refuse _ => simp [stepEvent]

/-- R168: a busy core's step answers a next state, a reset or not. -/
theorem step_of_busy_next (hi : Inv s) (hbusy : s.phase ≠ .idle) : ∃ t, step s = .next t := by
  rcases nextEvent_of_busy s hbusy with he | he
  · exact ⟨_, by rw [step, he]; rfl⟩
  · obtain ⟨i, hdecode⟩ := (exists_decode_uopWord_iff s.var s.phase).mpr hbusy
    obtain ⟨t, ht⟩ := exec_micro_next hi.consume hdecode
    refine ⟨tick t, ?_⟩
    rw [step, he, stepEvent, runCode_of_decode (.uop (uopCode s)) i _ hdecode, ht]
    rfl
end

/-- Settles O51: an idle core's events never fault, and a busy core's micro-operation reads inside the window only. -/
theorem busyCoreAlwaysSteps : Obligations.BusyCoreAlwaysSteps := by
  refine fun s hi => ⟨fun r hfault => ?noFault, step_of_busy_next hi⟩
  case noFault =>
    by_cases hidle : s.phase = .idle
    · refine stepEvent_ne_fault (nextEvent s) (fun c he => ?_) r (step_eq_fault s r hfault)
      rw [nextEvent, if_pos hidle] at he
      split at he
      · cases he
      · exact hostEvent_ne_uop _ c he
    · obtain ⟨t, ht⟩ := step_of_busy_next hi hidle
      rw [ht] at hfault
      cases hfault

end Sys2Proof.Machine
end

section
/-! SUPPORT. R110, R111, R130: the closed forms on the little-endian bytes of an integer. -/
namespace Sys2Proof.Machine

theorem le_drop (bs : List Byte) (k : Nat) (h : k ≤ bs.length) : le (bs.drop k) = le bs / 2 ^ (8 * k) := by
  have hsplit := le_append (bs.take k) (bs.drop k)
  rw [List.take_append_drop, le_take, List.length_take, Nat.min_eq_left h] at hsplit
  have hdiv := Nat.mod_add_div (le bs) (2 ^ (8 * k))
  exact Nat.eq_of_mul_eq_mul_left (Nat.two_pow_pos (8 * k)) (by omega)

/-- The number that n bytes of a word make, from byte a on. -/
theorem le_slice_leBytes {w : Nat} (v : BitVec w) (m a n : Nat) (h : a + n ≤ m) :
    le (slice (leBytes v m) a n) = v.toNat / 2 ^ (8 * a) % 2 ^ (8 * n) := by
  have hm : 2 ^ (8 * m) = 2 ^ (8 * a) * 2 ^ (8 * (m - a)) := by
    rw [← Nat.pow_add]
    congr 1
    omega
  have hn : 2 ^ (8 * n) ∣ 2 ^ (8 * (m - a)) := Nat.pow_dvd_pow 2 (by omega)
  calc le (slice (leBytes v m) a n)
      = v.toNat % 2 ^ (8 * m) / 2 ^ (8 * a) % 2 ^ (8 * n) := by
        rw [slice, le_take, le_drop _ _ (by rw [leBytes_length]; omega), le_leBytes]
    _ = v.toNat / 2 ^ (8 * a) % 2 ^ (8 * n) := by
        rw [hm, Nat.mod_mul_right_div_self, Nat.mod_mod_of_dvd _ hn]

/-- R110, R111: a block word of an integer's bytes is 32 bits of it. -/
theorem word32_leBytes {w : Nat} (v : BitVec w) (m a : Nat) (h : a + 4 ≤ m) :
    word32 (leBytes v m) a 4 = v.extractLsb' (8 * a) 32 := by
  refine BitVec.eq_of_toNat_eq ?_
  rw [word32, le_slice_leBytes v m a 4 h, BitVec.toNat_ofNat, BitVec.extractLsb'_toNat, Nat.shiftRight_eq_div_pow]
  simp

/-- R130: the word of all of an integer's bytes is the integer. -/
theorem word64_leBytes {w : Nat} (v : BitVec w) (n : Nat) (hw : w ≤ 8 * n) :
    word64 (leBytes v n) 0 n = v.setWidth 64 := by
  have hv : v.toNat < 2 ^ (8 * n) := v.isLt.trans_le (Nat.pow_le_pow_right (by decide) hw)
  refine BitVec.eq_of_toNat_eq ?_
  rw [word64, le_slice_leBytes v n 0 n (by omega), BitVec.toNat_ofNat, BitVec.toNat_setWidth]
  simp [Nat.mod_eq_of_lt hv]

@[simp] theorem word32_zero (B : List Byte) (a : Nat) : word32 B a 0 = 0 := by simp [word32, slice]

@[simp] theorem word64_zero (B : List Byte) (a : Nat) : word64 B a 0 = 0 := by simp [word64, slice]

/-- R109: an input of whole blocks has no tail. -/
theorem murmur32_of_blocks (seed : W32) (B : List Byte) (n : Nat) (h : B.length = 4 * n) :
    murmur32 seed B = fmix32 (blocks32 seed B n ^^^ BitVec.ofNat 32 (4 * n)) := by
  have hn : 4 * n / 4 = n := by omega
  simp [murmur32, h, hn]

/-- R130: an input of at most eight bytes is a tail of the first word alone. -/
theorem murmur128_of_short (seed : W64) (B : List Byte) (h : B.length ≤ 8) :
    murmur128 seed B = finalLanes (seed ^^^ mixK1_64 (word64 B 0 B.length)) seed (BitVec.ofNat 64 B.length) := by
  have hblocks : B.length / 16 = 0 := by omega
  have hsecond : B.length - 8 = 0 := by omega
  simp [murmur128, hblocks, hsecond, blocks128, Nat.min_eq_left h]

/-- Settles O57: the block words of an integer are its halves, and the tail word of `x64_128` is all of it. -/
theorem integerForms : Obligations.IntegerForms := by
  refine ⟨fun seed v => ?i32, fun seed v => ?i64, fun seed v => ?i32wide, fun seed v => ?i64wide⟩
  case i32 =>
    have hv : v.extractLsb' 0 32 = v := by simp
    rw [murmur32_of_blocks seed _ 1 (leBytes_length v 4), blocks32_succ, word32_leBytes v 4 0 (by decide), hv]
    rfl
  case i64 =>
    rw [murmur32_of_blocks seed _ 2 (leBytes_length v 8), blocks32_succ, blocks32_succ,
      word32_leBytes v 8 0 (by decide), word32_leBytes v 8 4 (by decide)]
    rfl
  case i32wide =>
    rw [murmur128_of_short seed _ (by simp), leBytes_length, word64_leBytes v 4 (by decide)]
    rfl
  case i64wide =>
    rw [murmur128_of_short seed _ (by simp), leBytes_length, word64_leBytes v 8 (by decide), BitVec.setWidth_eq]
    rfl

end Sys2Proof.Machine
end

section
/-! SUPPORT. R168, R169: the last state of a command, the states on the way to it, and the command whose check fails. -/
namespace Sys2Proof.Machine

/-- R169: a command ends idle with the closed form of its seed and its input, and leaves the host's side alone. -/
theorem run_command_end (s : State) (v : Variant) (src : Source) (B : List Byte) (rest : List HostAction)
    (h : AboutToIssue s v src rest) (hB : InputIs s src B) :
    ∃ t, run (6 + B.length / blockSize v) s = .next t ∧
      digestPrefix t (resultLen v).toNat = hashBytes v s.seed B ∧
      t.dlen = resultLen v ∧ t.status = resultStatus v ∧ t.phase = .idle ∧
      KeepsOperands s t ∧ t.inputs = rest ∧ t.reads = s.reads := by
  have hdigest := digestPrefix_afterPack v (hashed v B (opened s v src B.length rest))
  rw [afterPack_dlen, accumulatorBytes_hashed] at hdigest
  refine ⟨_, run_command s v src B rest h hB, hdigest, afterPack_dlen v _, afterPack_status v _, rfl, ?hostSide⟩
  case hostSide =>
    cases v with
    | x86_32 => exact ⟨⟨rfl, rfl, rfl, rfl, rfl, rfl, rfl, fun _ => rfl, rfl⟩, rfl, rfl⟩
    | x64_128 => exact ⟨⟨rfl, rfl, rfl, rfl, rfl, rfl, rfl, fun _ => rfl, rfl⟩, rfl, rfl⟩

/-- All sixteen bytes of DIGEST. -/
theorem digestPrefix_sixteen (s : State) : digestPrefix s 16 = s.digest.toList :=
  List.take_of_length_le (by simp)

/-- Settles O52: what a reader meets after a command of `x86_32` is the first four bytes. -/
theorem hash32ComputesMurmur32 : Obligations.Hash32ComputesMurmur32 :=
  fun s src B rest h hB => run_command_end s .x86_32 src B rest h hB

/-- Settles O53: what a reader meets after a command of `x64_128` is all of DIGEST. -/
theorem hash128ComputesMurmur128 : Obligations.Hash128ComputesMurmur128 := by
  intro s src B rest h hB
  obtain ⟨t, hrun, hdigest, hend⟩ := run_command_end s .x64_128 src B rest h hB
  exact ⟨t, hrun, (digestPrefix_sixteen t).symm.trans hdigest, hend⟩

section
variable {w : State} {B : List Byte}

/-- R161: INIT and the first n blocks. -/
theorem run_to_block (hw : OpenOn w B) (v : Variant) (hvar : w.var = v) (n : Nat) (h : n ≤ B.length / blockSize v) :
    run (1 + n) w = .next (windowAt (afterBlocks v B n w) B (blockSize v * n) (n + 1) (phaseAtBlock v B n)) := by
  rw [run_add 1 n w _ (run_one _ _ (step_init hw v hvar))]
  exact run_of_steps
    (fun i => windowAt (afterBlocks v B i w) B (blockSize v * i) (i + 1) (phaseAtBlock v B i)) n
    fun i hi => step_block hw v hvar i (i + 1) (hi.trans_le h)

theorem phaseAtBlock_ne_idle (v : Variant) (B : List Byte) (n : Nat) : phaseAtBlock v B n ≠ .idle := by
  unfold phaseAtBlock
  split <;> decide

/-- R161: INIT, all the blocks and the tail. -/
theorem run_to_final (hw : OpenOn w B) (v : Variant) (hvar : w.var = v) :
    run (1 + B.length / blockSize v + 1) w =
      .next (windowAt (afterTail v B w) B B.length (B.length / blockSize v + 1 + 1) .final) := by
  rw [run_add _ 1 w _ (run_to_block hw v hvar _ (Nat.le_refl _))]
  exact run_one _ _ (step_tail hw v hvar _)

/-- R161: all but the packer. -/
theorem run_to_pack (hw : OpenOn w B) (v : Variant) (hvar : w.var = v) :
    run (1 + B.length / blockSize v + 1 + 1) w =
      .next (windowAt (afterFinal v (afterTail v B w)) B B.length (B.length / blockSize v + 1 + 1 + 1) .pack) := by
  rw [run_add _ 1 w _ (run_to_final hw v hvar)]
  exact run_one _ _ (step_final (hw.afterTail v) v ((afterTail_var v).trans hvar) _ _)

/-- R168: before its last micro-operation a command's core is busy. -/
theorem run_busy_of_openOn (hw : OpenOn w B) (v : Variant) (hvar : w.var = v) (j : Nat)
    (hj : j < B.length / blockSize v + 4) : ∃ t, run j w = .next t ∧ t.phase ≠ .idle := by
  obtain rfl | ⟨n, hn, rfl⟩ | rfl | rfl : j = 0 ∨ (∃ n, n ≤ B.length / blockSize v ∧ j = 1 + n) ∨
      j = 1 + B.length / blockSize v + 1 ∨ j = 1 + B.length / blockSize v + 1 + 1 := by
    by_cases hblock : 1 ≤ j ∧ j - 1 ≤ B.length / blockSize v
    · exact .inr (.inl ⟨j - 1, hblock.2, by omega⟩)
    · omega
  · exact ⟨w, rfl, by simp [hw.phase]⟩
  · exact ⟨_, run_to_block hw v hvar n hn, phaseAtBlock_ne_idle v B n⟩
  · exact ⟨_, run_to_final hw v hvar, by simp [windowAt]⟩
  · exact ⟨_, run_to_pack hw v hvar, by simp [windowAt]⟩
end

/-- Settles O54: the acceptance, the check, and the micro-operations from the open window to the packer. -/
theorem stepCountOfACommand : Obligations.StepCountOfACommand := by
  refine fun s v src B rest h hB => ⟨fun j hj => ?busy, ?idle⟩
  case busy =>
    cases j with
    | zero => exact ⟨_, run_one _ _ (step_of_aboutToIssue s v src rest h), by simp⟩
    | succ j =>
      have hopen := openOn_opened s v src B rest h.noReset hB
      have hsteps : 1 + (j + 1) = 2 + j := by omega
      rw [hsteps, run_add 2 j s _ (run_opens s v src B rest h hB)]
      exact run_busy_of_openOn hopen v rfl j (by omega)
  case idle =>
    obtain ⟨t, hrun, -, -, -, hidle, -⟩ := run_command_end s v src B rest h hB
    have hsteps : 1 + (5 + B.length / blockSize v) = 6 + B.length / blockSize v := by omega
    exact ⟨t, hsteps ▸ hrun, hidle⟩

/-- R86: with the three registers written, RangeOK is of their contents. -/
theorem checkOk_iff_rangeHolds (s : State) (ho : s.written.offset = true) (hl : s.written.length = true)
    (hb : s.written.buflen = true) : checkOk s = true ↔ RangeHolds s := by
  rw [checkOk_iff, operand_of_written s .offset ho, operand_of_written s .length hl, operand_of_written s .buflen hb]
  rfl

theorem step_of_failing_check (s : State) (v : Variant) (hvar : s.var = v) (hphase : s.phase = .check)
    (hsrc : s.src = .bytes) (hreset : ∀ n r, s.inputs ≠ .reset n :: r) (hfail : ¬ checkOk s = true) :
    step s = .next (tick (raiseError .boundsViolation s)) :=
  step_of_micro s _ v .check (.lebdCheck v) hvar hphase hreset (decode_uopWord v .check)
    (execLebdCheck_bytes_of_not_ok s v hsrc hfail)

/-- Settles O55: the check of the accepted command fails, and the error entry brings the core back to idle. -/
theorem boundsViolationOfACommand : Obligations.BoundsViolationOfACommand := by
  intro s v rest h ho hl hb hbad
  rw [run_add 1 1 s _ (run_one _ _ (step_of_aboutToIssue s v .bytes rest h))]
  refine run_one _ _ ((step_of_failing_check _ v rfl rfl rfl h.noReset ?fails).trans ?ended)
  case fails =>
    rw [checkOk_iff_rangeHolds]
    exacts [hbad, ho, hl, hb]
  case ended => simp [tick, raiseError, statusOfError, HwError.code, h.idle]

end Sys2Proof.Machine
end

section
/-! SUPPORT. R76, R78, R171: the host's writes that the expansion of a text hash begins with, and the command behind them. -/
namespace Sys2Proof.Machine

/-- INBUF with bytes written from an index on, one after the other. -/
def storeAll (m : List Host.Cell) (i : Nat) : List Byte → List Host.Cell
  | [] => m
  | b :: bs => storeAll (Memory.store m i b) (i + 1) bs

/-- The host's actions that write bytes from an index on (30_encoding.md R76). -/
def bufActions (i : Nat) : List Byte → List HostAction
  | [] => []
  | b :: bs => .buf i b :: bufActions (i + 1) bs

theorem lookup_storeAll_of_lt (m : List Host.Cell) (i j : Nat) (bs : List Byte) (h : j < i) :
    Memory.lookup (storeAll m i bs) j = Memory.lookup m j := by
  induction bs generalizing m i with
  | nil => rfl
  | cons b bs ih => rw [storeAll, ih _ _ (by omega), Memory.lookup_store_other _ _ _ _ (by omega)]

theorem lookup_storeAll (m : List Host.Cell) (i k : Nat) (bs : List Byte) (h : k < bs.length) :
    Memory.lookup (storeAll m i bs) (i + k) = some bs[k] := by
  induction bs generalizing m i k with
  | nil => simp at h
  | cons b bs ih =>
    cases k with
    | zero =>
      exact (lookup_storeAll_of_lt _ (i + 1) i bs (Nat.lt_succ_self i)).trans (Memory.lookup_store_same m i b)
    | succ k =>
      have hk := ih (Memory.store m i b) (i + 1) k (by simpa using h)
      rw [Nat.add_assoc, Nat.add_comm 1] at hk
      exact hk

theorem mapIdx_buf (i : Nat) (bs : List Byte) : (bs.mapIdx fun k b => HostAction.buf (i + k) b) = bufActions i bs := by
  induction bs generalizing i with
  | nil => rfl
  | cons b bs ih =>
    rw [List.mapIdx_cons, bufActions, ← ih (i + 1)]
    simp only [Nat.add_zero, Nat.add_assoc, Nat.add_comm 1]

theorem run_succ {s t : State} (h : step s = .next t) (k : Nat) : run (k + 1) s = run k t := by
  rw [Nat.add_comm, run_add 1 k s t (run_one s t h)]

/-- R171: an idle core takes the bytes one a step. -/
theorem run_bufActions (bs : List Byte) (s : State) (i : Nat) (rest : List HostAction) (hidle : s.phase = .idle)
    (hinputs : s.inputs = bufActions i bs ++ rest) (hcap : i + bs.length ≤ s.params.inbufCap.val) :
    run bs.length s =
      .next { s with inbuf := storeAll s.inbuf i bs, inputs := rest, moment := s.moment + bs.length } := by
  induction bs generalizing s i with
  | nil =>
    obtain rfl : s.inputs = rest := hinputs
    rfl
  | cons b bs ih =>
    rw [List.length_cons] at hcap ⊢
    have hstep := step_of_buf s i b _ hidle hinputs (by omega)
    refine (run_succ hstep bs.length).trans (Eq.trans (ih _ (i + 1) (by simpa using hidle) rfl (by simp; omega)) ?_)
    simp only [storeAll, tick, writeInbuf, Nat.add_assoc, Nat.add_comm 1]

/-- R78: the expansion of a text hash. -/
theorem assemble_hashText (p : Config.Params) (v : Variant) (text : List Byte) :
    assemble p (pseudoLines p (.hashText v text)) =
      bufActions 0 text ++
        [.write (p.base + regOffset .buflen) (regWidth .buflen) (BitVec.ofNat 64 text.length),
          .write (p.base + regOffset .offset) (regWidth .offset) 0,
          .write (p.base + regOffset .length) (regWidth .length) (BitVec.ofNat 64 text.length),
          issue p v .bytes] := by
  have hissue : (HostAction.write (p.base + regOffset .cmd) 32
      ((cmdWord (varselOf v) (srcselOf .bytes)).setWidth 64)) = issue p v .bytes := by cases v <;> rfl
  simp only [pseudoLines, assemble, List.flatMap_cons, List.flatMap_nil, lineActions, hissue, mapIdx_buf]
  rfl

/-- The state in which the host has placed a text and its range, and is about to issue the command. -/
def textPlaced (s : State) (v : Variant) (text : List Byte) (rest : List HostAction) : State :=
  { s with
    inbuf := storeAll s.inbuf 0 text
    buflen := BitVec.ofNat 64 text.length
    offset := 0
    length := BitVec.ofNat 64 text.length
    written := { s.written with buflen := true, offset := true, length := true }
    inputs := issue s.params v .bytes :: rest
    moment := s.moment + text.length + 3 }

section
variable {s : State} {v : Variant} {text : List Byte} {rest : List HostAction}

theorem run_to_textPlaced (hidle : s.phase = .idle) (hcap : text.length ≤ s.params.inbufCap.val)
    (hinputs : s.inputs = assemble s.params (pseudoLines s.params (.hashText v text)) ++ rest) :
    run (text.length + 3) s = .next (textPlaced s v text rest) := by
  rw [assemble_hashText, List.append_assoc] at hinputs
  rw [run_add text.length 3 s _ (run_bufActions text s 0 _ hidle hinputs (by omega))]
  refine Eq.trans (run_succ (step_of_operand_write _ .buflen _ _ (by exact hidle) (by rfl)) 2) ?_
  refine Eq.trans (run_succ (step_of_operand_write _ .offset _ _ (by exact hidle) (by rfl)) 1) ?_
  exact run_one _ _ (step_of_operand_write _ .length _ _ (by exact hidle) (by rfl))

/-- R78: the range of a text that fits INBUF holds, and its bytes are those just written. -/
theorem inputIs_textPlaced (hcap : text.length ≤ s.params.inbufCap.val) :
    InputIs (textPlaced s v text rest) .bytes text := by
  have hlt := s.params.inbufCap.isLt
  have hlen : (BitVec.ofNat 64 text.length).toNat = text.length := by
    rw [BitVec.toNat_ofNat]
    omega
  have hint : (BitVec.ofNat 64 text.length).toInt = text.length := by
    rw [BitVec.toInt_eq_toNat_cond, hlen, if_pos (by omega)]
  refine ⟨rfl, rfl, rfl, ?range, hlen.symm, fun i hi => ?bytes⟩
  case range =>
    have hzero : (0 : W64).toInt = 0 := by decide
    simp only [RangeHolds, textPlaced, hint, hlen, hzero]
    omega
  case bytes => exact lookup_storeAll s.inbuf 0 i text hi
end

/-- Settles O59: the host's writes place the text, and the command behind them hashes it. -/
theorem textHashing : Obligations.TextHashing := by
  intro s v text rest hidle hcap hrest hinputs
  have hissue : AboutToIssue (textPlaced s v text rest) v .bytes rest := ⟨hidle, rfl, hrest⟩
  obtain ⟨t, hrun, hdigest, -, hstatus, htidle, -, htinputs, -⟩ :=
    run_command_end _ v .bytes text rest hissue (inputIs_textPlaced hcap)
  refine ⟨text.length + 3 + (6 + text.length / blockSize v), t, ?_, htidle, htinputs, ?x86_32, ?x64_128⟩
  · rw [run_add _ _ s _ (run_to_textPlaced hidle hcap hinputs), hrun]
  case x86_32 =>
    rintro rfl
    exact ⟨hstatus, hdigest⟩
  case x64_128 =>
    rintro rfl
    exact ⟨hstatus, (digestPrefix_sixteen t).symm.trans hdigest⟩

end Sys2Proof.Machine
end
